-- ==== Sys2Proof/Word.lean ====
section
/-! DEFINITION. The two word types of the machine (spec/00_scope.md R4, R6): a byte is 8 bits, a word is 16 bits.
Their composition and splitting (`composeWord`, `hiByte`, `loByte`) stand in `Decode.lean`, sign extension in
`Machine/Operands.lean`. -/

namespace Sys2Proof

/-- A byte: 8 bits, the width of `A`, `X`, `Y`, `IR`, `MDR`, `hob`, `lob`, `tempStore` and of a memory cell (R4, R6). -/
abbrev Byte := BitVec 8

/-- A word: 16 bits, the width of `PC` and `MAR` (R4, R6). `+` on it is the spec's `+_16`. -/
abbrev Word := BitVec 16

end Sys2Proof
end

