-- ==== Sys2Proof/Machine/Flags.lean ====
section
/-! DEFINITION. The flag computations. The machine has one flag, `zFlag`, and one computation of it (spec/10_state.md R16,
spec/42_arithmetic_compare.md R131, R133). -/

namespace Sys2Proof.Machine

/-- `zFlag` after a compare (R131): set exactly when the memory operand equals `X`. -/
def compareFlag (operand x : Byte) : Bool := decide (operand = x)

end Sys2Proof.Machine
end

