-- ==== Sys2Proof/Syntax.lean ====
section
/-! DEFINITION. The instructions as syntax (spec/30_encoding.md R70 to R74; spec/opcode_table.json): the 18 operations,
the decode classes, and `Instr`, one constructor per row of the table (SYS has two rows, R77). -/

namespace Sys2Proof

/-- The 18 operations, in the order of R74; the docstring gives the source's name. -/
inductive Operation where
  /-- load-accumulator-immediate -/
  | ldaImm
  /-- load-accumulator-from-memory -/
  | ldaAbs
  /-- store-accumulator-to-memory -/
  | sta
  /-- load-accumulator-from-X -/
  | txa
  /-- load-accumulator-from-Y -/
  | tya
  /-- add-with-carry -/
  | adc
  /-- load-X-immediate -/
  | ldxImm
  /-- load-X-from-memory -/
  | ldxAbs
  /-- load-X-from-accumulator -/
  | tax
  /-- load-Y-immediate -/
  | ldyImm
  /-- load-Y-from-memory -/
  | ldyAbs
  /-- load-Y-from-accumulator -/
  | tay
  /-- no-op -/
  | nop
  /-- halt -/
  | brk
  /-- compare-memory-with-X -/
  | cpx
  /-- branch-if-zero-flag-clear -/
  | bne
  /-- increment-memory -/
  | inc
  /-- system-call -/
  | sys
deriving DecidableEq, Repr

/-- The decode class decode-1 dispatches on (R76). -/
inductive DecodeClass where
  | constantOperand
  | twoByteAddress
  | noOperand
  | invalid
deriving DecidableEq, Repr

/-- An instruction, one constructor per row of spec/opcode_table.json. An `addr` is the whole 16-bit address
`{addr_hi, addr_lo}` (R73). -/
inductive Instr where
  /-- `A9 ii` (R110) -/
  | ldaImm (imm : Byte)
  /-- `AD ll hh` (R111) -/
  | ldaAbs (addr : Word)
  /-- `8D ll hh` (R112) -/
  | sta (addr : Word)
  /-- `8A` (R113) -/
  | txa
  /-- `98` (R114) -/
  | tya
  /-- `6D ll hh` (R130) -/
  | adc (addr : Word)
  /-- `A2 ii` (R115) -/
  | ldxImm (imm : Byte)
  /-- `AE ll hh` (R116) -/
  | ldxAbs (addr : Word)
  /-- `AA` (R117) -/
  | tax
  /-- `A0 ii` (R118) -/
  | ldyImm (imm : Byte)
  /-- `AC ll hh` (R119) -/
  | ldyAbs (addr : Word)
  /-- `A8` (R120) -/
  | tay
  /-- `EA` (R141) -/
  | nop
  /-- `00` (R142) -/
  | brk
  /-- `EC ll hh` (R131) -/
  | cpx (addr : Word)
  /-- `D0 rr` (R140) -/
  | bne (rel : Byte)
  /-- `EE ll hh` (R132) -/
  | inc (addr : Word)
  /-- `FF`, the form of the system call when `X != 3` (R150) -/
  | sys
  /-- `FF ll hh`, the form of the system call when `X = 3` (R150, R153) -/
  | sysAddr (addr : Word)
deriving DecidableEq, Repr

end Sys2Proof
end

