-- ==== Sys2Proof/WellFormed.lean ====
section
/-! DEFINITION. The well-formedness checks. The operand fields of `Instr` have exactly the widths of the encoding, so an
instruction can be ill-formed in one way only: the form of a system call must agree with the value of `X` that
decode-1 will see (spec/30_encoding.md R77, spec/70_reset_and_hazards.md R217). A load request of the host can be
out of range in two ways (spec/20_memory.md R52). -/

namespace Sys2Proof

/-- An instruction is well formed for the value `x` of register `X` at decode-1: `SYS` without operand needs
`X != 3`, `SYS addr16` needs `X = 3`, and every other instruction is well formed for every `X` (R77). -/
def Instr.wellFormed (x : Byte) : Instr → Bool
  | .sys => x != 3#8
  | .sysAddr _ => x == 3#8
  | .ldaImm _ | .ldaAbs _ | .sta _ | .txa | .tya | .adc _ | .ldxImm _ | .ldxAbs _ | .tax | .ldyImm _ | .ldyAbs _
  | .tay | .nop | .brk | .cpx _ | .bne _ | .inc _ => true

/-- The address half of R52's check: `start <= 65,535` and `start + len(bytes) <= 65,536`. -/
def loadAddressesFit (bytes : List Nat) (start : Nat) : Bool :=
  decide (start ≤ 65535) && decide (start + bytes.length ≤ 65536)

/-- The value half of R52's check: every `bytes[i] <= 255`. -/
def loadValuesFit (bytes : List Nat) : Bool :=
  bytes.all fun b => decide (b ≤ 255)

end Sys2Proof
end

