-- ==== Sys2Proof/Decode.lean ====
section
/-! DEFINITION. Encoding and decoding (spec/30_encoding.md): the opcode map, the decode classes, the decoder on any list of
bytes, the encoder, and the host's `decodeTableWord`. -/

namespace Sys2Proof

/-! ## Bytes and words (R6) -/

/-- `{hi, lo}`: the byte `hi` in bits 15:8, `lo` in bits 7:0. -/
def composeWord (hi lo : Byte) : Word := hi ++ lo

/-- `hi(w) = w[15:8]`. -/
def hiByte (w : Word) : Byte := w.extractLsb' 8 8

/-- `lo(w) = w[7:0]`. -/
def loByte (w : Word) : Byte := w.extractLsb' 0 8

/-! ## The opcode map (R74, R75) -/

/-- `OPCODE` (R75, D1). PRESUMED, assumption log 1: the byte values are the spec's decision from general knowledge of
the MOS 6502, not the source's. -/
def opcode : Operation → Byte
  | .ldaImm => 0xA9#8
  | .ldaAbs => 0xAD#8
  | .sta => 0x8D#8
  | .txa => 0x8A#8
  | .tya => 0x98#8
  | .adc => 0x6D#8
  | .ldxImm => 0xA2#8
  | .ldxAbs => 0xAE#8
  | .tax => 0xAA#8
  | .ldyImm => 0xA0#8
  | .ldyAbs => 0xAC#8
  | .tay => 0xA8#8
  | .nop => 0xEA#8
  | .brk => 0x00#8
  | .cpx => 0xEC#8
  | .bne => 0xD0#8
  | .inc => 0xEE#8
  | .sys => 0xFF#8

/-- The 18 operations of R74, in its order. -/
def allOperations : List Operation :=
  [.ldaImm, .ldaAbs, .sta, .txa, .tya, .adc, .ldxImm, .ldxAbs, .tax, .ldyImm, .ldyAbs, .tay, .nop, .brk, .cpx, .bne,
    .inc, .sys]

/-- The operation whose opcode is the byte `b`; `none` for the 238 invalid opcodes (R78). Decoding is a lookup of the
whole byte (R71). -/
def operationOf (b : Byte) : Option Operation :=
  allOperations.find? fun op => opcode op == b

/-- The decode class of an operation, with the value `x` of `X` at decode-1 (R74, R76); only SYS depends on it
(R77). -/
def operationClass (x : Byte) : Operation → DecodeClass
  | .ldaImm | .ldxImm | .ldyImm | .bne => .constantOperand
  | .ldaAbs | .sta | .adc | .ldxAbs | .ldyAbs | .cpx | .inc => .twoByteAddress
  | .txa | .tya | .tax | .tay | .nop | .brk => .noOperand
  | .sys => if x = 3#8 then .twoByteAddress else .noOperand

/-- `Class(IR, X)` (R76). -/
def classify (ir x : Byte) : DecodeClass :=
  match operationOf ir with
  | some op => operationClass x op
  | none => .invalid

/-- The length in bytes of an instruction of a class (R70, R80). -/
def classLength : DecodeClass → Nat
  | .noOperand | .invalid => 1
  | .constantOperand => 2
  | .twoByteAddress => 3

/-! ## The decoder -/

/-- Why the decoder reads no instruction. -/
inductive DecodeError where
  /-- The first byte is none of the 18 opcodes (R78). The machine goes on: R97, R144. -/
  | invalidOpcode (b : Byte)
  /-- The list of bytes ends inside the instruction. Memory never does: `PC` wraps (R14, R55). -/
  | truncated
deriving DecidableEq, Repr

/-- Format C (R71): one constant byte follows the opcode. -/
def decodeConstant (mk : Byte → Instr) : List Byte → Except DecodeError (Instr × List Byte)
  | c :: rest => .ok (mk c, rest)
  | [] => .error .truncated

/-- Format A (R71, R73): the low address byte, then the high address byte, follow the opcode. -/
def decodeAddress (mk : Word → Instr) : List Byte → Except DecodeError (Instr × List Byte)
  | lo :: hi :: rest => .ok (mk (composeWord hi lo), rest)
  | [_] => .error .truncated
  | [] => .error .truncated

/-- The operand part of decoding: the instruction of operation `op`, its operand taken from `rest`. -/
def decodeOperands (x : Byte) (op : Operation) (rest : List Byte) : Except DecodeError (Instr × List Byte) :=
  match op with
  | .ldaImm => decodeConstant .ldaImm rest
  | .ldaAbs => decodeAddress .ldaAbs rest
  | .sta => decodeAddress .sta rest
  | .txa => .ok (.txa, rest)
  | .tya => .ok (.tya, rest)
  | .adc => decodeAddress .adc rest
  | .ldxImm => decodeConstant .ldxImm rest
  | .ldxAbs => decodeAddress .ldxAbs rest
  | .tax => .ok (.tax, rest)
  | .ldyImm => decodeConstant .ldyImm rest
  | .ldyAbs => decodeAddress .ldyAbs rest
  | .tay => .ok (.tay, rest)
  | .nop => .ok (.nop, rest)
  | .brk => .ok (.brk, rest)
  | .cpx => decodeAddress .cpx rest
  | .bne => decodeConstant .bne rest
  | .inc => decodeAddress .inc rest
  | .sys => if x = 3#8 then decodeAddress .sysAddr rest else .ok (.sys, rest)

/-- Decode the instruction at the head of a list of bytes, with the value `x` of `X` (R71, R74, R77): the instruction
and the bytes after it, or the reason there is none. -/
def decode (x : Byte) : List Byte → Except DecodeError (Instr × List Byte)
  | [] => .error .truncated
  | b :: rest =>
    match operationOf b with
    | some op => decodeOperands x op rest
    | none => .error (.invalidOpcode b)

/-! ## The encoder (R71, R74) -/

/-- The operation of an instruction (R74). -/
def Instr.operation : Instr → Operation
  | .ldaImm _ => .ldaImm
  | .ldaAbs _ => .ldaAbs
  | .sta _ => .sta
  | .txa => .txa
  | .tya => .tya
  | .adc _ => .adc
  | .ldxImm _ => .ldxImm
  | .ldxAbs _ => .ldxAbs
  | .tax => .tax
  | .ldyImm _ => .ldyImm
  | .ldyAbs _ => .ldyAbs
  | .tay => .tay
  | .nop => .nop
  | .brk => .brk
  | .cpx _ => .cpx
  | .bne _ => .bne
  | .inc _ => .inc
  | .sys => .sys
  | .sysAddr _ => .sys

/-- The operand bytes of an instruction, an address low byte first (R71, R54). -/
def Instr.operandBytes : Instr → List Byte
  | .ldaImm c | .ldxImm c | .ldyImm c | .bne c => [c]
  | .ldaAbs w | .sta w | .adc w | .ldxAbs w | .ldyAbs w | .cpx w | .inc w | .sysAddr w => [loByte w, hiByte w]
  | .txa | .tya | .tax | .tay | .nop | .brk | .sys => []

/-- The bytes of an instruction, in ascending address order (R71). -/
def encode (i : Instr) : List Byte :=
  opcode i.operation :: i.operandBytes

/-! ## The opcode table's words -/

/-- The three bytes of a table word: byte `k` is bits `8k+7 .. 8k` of `w` below bit `nbits`, the rest zero. Three is
the longest instruction (R70). -/
def tableBytes (nbits w : Nat) : List Byte :=
  let v := w % 2 ^ nbits
  [BitVec.ofNat 8 v, BitVec.ofNat 8 (v / 256), BitVec.ofNat 8 (v / 65536)]

/-- The value of `X` a table row stands for: the two rows of SYS have the same opcode byte and differ by `X` (R77), so
a row of three bytes is read with `X = 3` and a shorter one with `X = 0`. Only SYS looks at it. -/
def tableX (nbits : Nat) : Byte :=
  if nbits < 24 then 0#8 else 3#8

/-- The instruction the decoder reads from a table row's word of `nbits` bits. -/
def decodeTableWord (nbits w : Nat) : Option Instr :=
  match decode (tableX nbits) (tableBytes nbits w) with
  | .ok (i, _) => some i
  | .error _ => none

end Sys2Proof
end

