-- ==== Sys2Proof/Machine/Operands.lean ====
section
/-! DEFINITION. The operand computations (spec/30_encoding.md R72, R73; spec/00_scope.md R6): the branch offset's sign
extension and target, the page address of the system call, the console's string cursor. The other operand forms (the
constant byte and the two address bytes) are moved by the decode phases of `Ops.lean` unchanged (R72, R73). -/

namespace Sys2Proof.Machine

/-- `sext_16(b)` (R6): the byte as a two's-complement number, widened to a word. -/
def sext16 (b : Byte) : Word := b.signExtend 16

/-- The target of a taken branch (R140): `PC +_16 sext_16(tempStore)`, `pc` being the address after the operand. -/
def branchTarget (pc : Word) (rel : Byte) : Word := pc + sext16 rel

/-- The start of the string of SYS with `X = 2` (R152): `{hi(PC), Y}`. -/
def pageAddress (pc : Word) (y : Byte) : Word := composeWord (hiByte pc) y

/-- The console's cursor address (R188): `start +_16 strOffset`. -/
def cursorAddress (start : Word) (offset : Nat) : Word := start + BitVec.ofNat 16 offset

end Sys2Proof.Machine
end

