-- ==== Sys2Proof/Config.lean ====
section
/-! DEFINITION. The parameters the spec leaves open (spec/00_scope.md R5, spec/10_state.md R31; decisions D15, D16,
D24, D25): constants without a body, so that no proof can see what they are and a claim holds whatever they are.
See notes/assumptions/3.md, 4.md, 5.md and 6.md. The opcode bytes, which the spec does decide (D1), are in `Decode.lean`. -/

namespace Sys2Proof

/-- What the key-handling routine does with a keyboard code (spec/60_exceptions.md R192). -/
inductive KeyAction where
  /-- "toggle debug output": `diag <- 1 - diag`. -/
  | toggleDiag
  /-- "emit a fixed greeting": `ConsoleAccept(Str(GREETING))`. -/
  | greeting
  /-- "trigger a memory dump": `dump(first, last)`, read-only (R191). -/
  | dump (first last : Nat)
  /-- The key does nothing. -/
  | nothing
deriving DecidableEq, Repr, Inhabited

/-- The `name` of an interrupt event (spec/10_state.md R25): the two names the source defines, and any other
string (R199). Assumption log 7: a string equal to one of the two defined names is spelled by that name's own
constructor. -/
inductive SourceName where
  | console
  | keyboard
  | other (name : String)
deriving DecidableEq, Repr, Inhabited

/-- `KEY_ACTION` (R192, D15, OPEN): which action a keyboard code has. -/
opaque Config.keyAction : Byte → KeyAction

/-- `GREETING` (R192, D15, OPEN): the bytes of the fixed greeting. -/
opaque Config.greeting : List Byte

/-- `IRQ_CONSOLE` (R171, D16, OPEN): the informational identifier in a Console event. -/
opaque Config.irqConsole : Nat

/-- `IRQ_KEYBOARD` (R171, D16, OPEN): the informational identifier in a Keyboard event. -/
opaque Config.irqKeyboard : Nat

/-- `DIAG_INITIAL` (R30, R33, D25, OPEN): whether diagnostic logging is on after reset. -/
opaque Config.diagInitial : Bool

/-- The devices registered with the interrupt controller at construction (R26, R33); no rule reads them. -/
opaque Config.registeredSources : List SourceName

/-- `TICK_INTERVAL` (R195, D24, OPEN): the length of the interval between ticks; no rule depends on it. -/
opaque Config.tickInterval : Nat

end Sys2Proof
end

