-- ==== Sys2Proof/Machine/State.lean ====
section
/-! DEFINITION. The state of the machine (spec/10_state.md R10 to R30), the reasons a step can stop, the reports it can make to
the host, and the state after reset (R33, R200). Plain data throughout. -/

namespace Sys2Proof.Machine

/-- The pipeline phase counter `step` (R17). It is 3 bits wide; the value 7 "is never written by any rule and is
unreachable", so the seven phases are a type of seven names. -/
inductive Phase where
  /-- 0 -/
  | fetch
  /-- 1 -/
  | decode1
  /-- 2 -/
  | decode2
  /-- 3 -/
  | execute1
  /-- 4 -/
  | execute2
  /-- 5 -/
  | writeBack
  /-- 6 -/
  | interruptCheck
deriving DecidableEq, Repr

/-- `mode` (R18): 0 normal, 1 interrupt-servicing. Status only; no rule reads it. -/
inductive Mode where
  | normal
  | interruptServicing
deriving DecidableEq, Repr

/-- An interrupt event (R25). Its payload waits in the device's FIFO, `conBuf` or `kbdBuf` (D21). A lower `priority`
value is a higher priority. -/
structure Event where
  irq : Nat
  priority : Nat
  name : SourceName
deriving DecidableEq, Repr

/-- A unit of console output (R28): one byte, or a string of bytes. -/
inductive OutputUnit where
  | byte (b : Byte)
  | str (bs : List Byte)
deriving DecidableEq, Repr

/-- The 65,536 cells (R20, R40), as the list of the addresses that do not read as zero; see `Memory.wf` in `Ops.lean`.
An unlisted address reads as `0x00`, what reset leaves in every cell (R33, R44). -/
abbrev Memory := List Host.Cell

/-- The state of the machine (R10). -/
structure State where
  /-- `A`, the accumulator (R11) -/
  a : Byte
  /-- `X` (R12) -/
  x : Byte
  /-- `Y` (R13) -/
  y : Byte
  /-- `PC` (R14) -/
  pc : Word
  /-- `IR` (R15) -/
  ir : Byte
  /-- `zFlag` (R16) -/
  zFlag : Bool
  /-- `step` (R17) -/
  step : Phase
  /-- `mode` (R18) -/
  mode : Mode
  /-- `tempStore` (R19, D7) -/
  tempStore : Byte
  /-- `cells` (R20) -/
  cells : Memory
  /-- `MAR` (R21) -/
  mar : Word
  /-- `MDR` (R22) -/
  mdr : Byte
  /-- `hob` (R23); `none` is the spec's `unset`, "a distinct state from zero" -/
  hob : Option Byte
  /-- `lob` (R23); `none` is the spec's `unset` -/
  lob : Option Byte
  /-- `queue`, the pending interrupt events (R24) -/
  queue : List Event
  /-- `sources`, the registered devices (R26); no rule reads it -/
  sources : List SourceName
  /-- `halted` (R27) -/
  halted : Bool
  /-- `conBuf`, the console's FIFO, oldest first (R28) -/
  conBuf : List OutputUnit
  /-- `strOffset`, the console's string cursor (R28, R188) -/
  strOffset : Nat
  /-- `strAccum`, the bytes of the string read so far (R28, R188) -/
  strAccum : List Byte
  /-- `OUT`, the units emitted, oldest first (R28) -/
  out : List OutputUnit
  /-- `kbdBuf`, the keyboard's FIFO, oldest first (R29) -/
  kbdBuf : List Byte
  /-- `diag`, the diagnostics switch (R30) -/
  diag : Bool
deriving DecidableEq, Repr

/-- Why the machine stops with a fault. -/
inductive Fault where
  /-- `ComposeUnset` (spec/20_memory.md R63, U1, D29): `ComposeAddress`, `AURead` or `AUWrite` found exactly one of
  `hob`, `lob` set, or `ComposeAddress` found both unset. Raised by `auRead`, `auWrite` and the string system call
  with `X = 3`. Safe: the machine stops where the source leaves the behaviour undefined, and no reachable state
  raises it (R35). -/
  | composeUnset
deriving DecidableEq, Repr

/-- Why a request is refused. -/
inductive Refusal where
  /-- An arm of `exec` without a meaning. Raised by `exec` only; safe. No arm raises it. -/
  | notModelled (mnemonic : String)
  /-- `AddressOutOfRange` (R52, D11): a host `load` that does not fit the address space. Raised by `load` only; safe:
  the request is refused whole and changes nothing. -/
  | addressOutOfRange
  /-- `ValueOutOfRange` (R52, D11): a host `load` with a value above 255. Raised by `load` only; safe, as above. -/
  | valueOutOfRange
deriving DecidableEq, Repr

/-- What a `Diag` report says (R183: its format is not specified). -/
inductive Diagnostic where
  /-- `Diag("invalid opcode", IR)` (R97, R144) -/
  | invalidOpcode (ir : Byte)
  /-- `Diag("invalid system call", X)` (R154) -/
  | invalidSystemCall (x : Byte)
deriving DecidableEq, Repr

/-- What a tick can tell the host beside its change of state (R183, R191, R192). A report is no state (R10, R183). -/
inductive Report where
  | diag (d : Diagnostic)
  /-- A memory dump: each address of the range with its byte, or `none` where the address is invalid (R191). -/
  | dump (listing : List (Nat × Option Byte))
deriving DecidableEq, Repr

/-- The state right after reset (R33, R200). The memory rows are the source's; the others are the spec's decisions D5,
D10, D12, and `diag` and `sources` are the parameters of R33. -/
def State.reset : State where
  a := 0x00#8
  x := 0x00#8
  y := 0x00#8
  pc := 0x0000#16
  ir := 0x00#8
  zFlag := false
  step := .fetch
  mode := .normal
  tempStore := 0x00#8
  cells := []
  mar := 0x0000#16
  mdr := 0x00#8
  hob := none
  lob := none
  queue := []
  sources := Config.registeredSources
  halted := false
  conBuf := []
  strOffset := 0
  strAccum := []
  out := []
  kbdBuf := []
  diag := Config.diagInitial

end Sys2Proof.Machine
end

