-- ==== Sys2Proof/Machine/Ops.lean ====
section
/-! DEFINITION. The operations the phases share: the cells, the `MAR`/`MDR` pair, the address unit (spec/20_memory.md), the
interrupt controller, the console, the keyboard arm and the interrupt-check phase (spec/60_exceptions.md), and the
phases common to all instructions (spec/40_pipeline.md). -/

namespace Sys2Proof.Machine

/-- What a phase or an instruction answers. -/
abbrev Result := Host.Outcome State Fault Refusal

/-- Do `k` after `r`; a fault or a refusal ends the run. -/
def andThen (r : Result) (k : State → Result) : Result :=
  match r with
  | .next s => k s
  | .fault f => .fault f
  | .refused f => .refused f

/-! ## The cells (R20, R40) -/

/-- The byte at an address; an unlisted address reads as `0x00` (R33, R44). -/
def Memory.read : Memory → Nat → Byte
  | [], _ => 0#8
  | (k, b) :: m, addr => if k = addr then b else Memory.read m addr

/-- Store a byte, keeping the canonical form: addresses rising, no entry equal to `0x00`. -/
def Memory.write : Memory → Nat → Byte → Memory
  | [], addr, v => if v = 0#8 then [] else [(addr, v)]
  | (k, b) :: m, addr, v =>
    if addr < k then
      if v = 0#8 then (k, b) :: m else (addr, v) :: (k, b) :: m
    else if addr = k then
      if v = 0#8 then m else (addr, v) :: m
    else (k, b) :: Memory.write m addr v

/-- The canonical form from address `low` on: addresses strictly rising and below 65,536, no zero byte listed. -/
def Memory.wfFrom (low : Nat) : Memory → Bool
  | [] => true
  | (k, b) :: m => decide (low ≤ k) && decide (k < 65536) && b != 0#8 && Memory.wfFrom (k + 1) m

/-- The canonical form of a memory. -/
def Memory.wf (m : Memory) : Bool := Memory.wfFrom 0 m

/-- The byte a 16-bit address selects; every address selects a cell (R58). -/
def State.cell (s : State) (addr : Word) : Byte := s.cells.read addr.toNat

/-! ## MAR and MDR (R41 to R43) -/

/-- `MemCellRead()` (R41). -/
def memCellRead (s : State) : State := { s with mdr := s.cell s.mar }

/-- `MemCellWrite()` (R42). -/
def memCellWrite (s : State) : State := { s with cells := s.cells.write s.mar.toNat s.mdr }

/-- `MemRead(addr, 1)` (R50): `MAR <- addr; MDR <- cells[MAR]`. The byte read is left in `MDR`; `hob` and `lob` are
untouched. -/
def memRead (addr : Word) (s : State) : State := memCellRead { s with mar := addr }

/-- `MemWrite(addr, 1, v)` (R51): `MAR <- addr; MDR <- v; cells[MAR] <- MDR`. Used by `load` only. -/
def memWrite (addr : Word) (v : Byte) (s : State) : State := memCellWrite { s with mar := addr, mdr := v }

/-! ## The address unit (R45 to R49) -/

/-- `SetLob(b)` (R46). -/
def setLob (b : Byte) (s : State) : State := { s with lob := some b }

/-- `SetHob(b)` (R46). -/
def setHob (b : Byte) (s : State) : State := { s with hob := some b }

/-- `setMar(address)` (R45): a plain register write; a 16-bit value always fits (D11). -/
def setMar (addr : Word) (s : State) : State := { s with mar := addr }

/-- `setMdr(byte)` (R45): a plain register write; an 8-bit value always fits (D11). -/
def setMdr (b : Byte) (s : State) : State := { s with mdr := b }

/-- `ComposeAddress()` (R47): `{hob, lob}` when both halves are set; `none` is the case the spec makes the fault
`ComposeUnset` (R63). It changes no state. -/
def composeAddress (s : State) : Option Word :=
  match s.hob, s.lob with
  | some hi, some lo => some (composeWord hi lo)
  | some _, none => none
  | none, some _ => none
  | none, none => none

/-- `hob <- unset; lob <- unset`, after every register-mediated access (R23, R48, R49). -/
def clearHalves (s : State) : State := { s with hob := none, lob := none }

/-- The two arms of R48 and R49: `access` at the address already in `MAR` when both halves are unset; otherwise at the
composed address, and the halves are cleared. With one half set, `ComposeUnset` (R63). -/
def auAccess (access : State → State) (s : State) : Result :=
  if s.hob = none ∧ s.lob = none then .next (access s)
  else
    match composeAddress s with
    | some addr => .next (clearHalves (access (setMar addr s)))
    | none => .fault .composeUnset

/-- `AURead()` (R48). The byte it returns is the one it leaves in `MDR`. -/
def auRead (s : State) : Result := auAccess memCellRead s

/-- `AUWrite()` (R49). The caller has put the byte to store in `MDR`. -/
def auWrite (s : State) : Result := auAccess memCellWrite s

/-! ## The interrupt controller (R171 to R175) -/

/-- Insert an event after the last one whose priority value is not greater than its own (R173). -/
def insertByPriority (ev : Event) : List Event → List Event
  | [] => [ev]
  | e :: es => if ev.priority < e.priority then ev :: e :: es else e :: insertByPriority ev es

/-- The stable sort, ascending by `priority` (R173, R174). -/
def sortByPriority (q : List Event) : List Event :=
  q.foldl (fun sorted ev => insertByPriority ev sorted) []

/-- `Post(ev)` (R173): append, then sort. -/
def post (ev : Event) (s : State) : State := { s with queue := sortByPriority (s.queue ++ [ev]) }

/-- `Next()` (R174): sort, then take the front event, if there is one. -/
def nextEvent (s : State) : Option Event × State :=
  match sortByPriority s.queue with
  | [] => (none, { s with queue := [] })
  | ev :: rest => (some ev, { s with queue := rest })

/-- `ConsoleEvent` (R171). -/
def consoleEvent : Event where
  irq := Config.irqConsole
  priority := 1
  name := .console

/-- `KeyboardEvent` (R171). -/
def keyboardEvent : Event where
  irq := Config.irqKeyboard
  priority := 4
  name := .keyboard

/-- `registerSource(device)` (R175): bookkeeping only. -/
def registerSource (device : SourceName) (s : State) : State := { s with sources := s.sources ++ [device] }

/-! ## The console (R186 to R188) -/

/-- `ConsoleAccept(p)` (R187). -/
def consoleAccept (p : OutputUnit) (s : State) : State :=
  post consoleEvent { s with conBuf := s.conBuf ++ [p] }

/-- `ConsoleOutputString(start)` (R188): read one byte at the cursor; on `0x00` hand the accumulated string to the
console and answer true, otherwise lengthen it and answer false. -/
def consoleOutputString (start : Word) (s : State) : Bool × State :=
  let r := memRead (cursorAddress start s.strOffset) s
  if r.mdr = 0x00#8 then
    (true, { consoleAccept (.str r.strAccum) r with strAccum := [], strOffset := 0 })
  else (false, { r with strAccum := r.strAccum ++ [r.mdr], strOffset := r.strOffset + 1 })

/-! ## Servicing an event, and the interrupt-check phase (R177 to R179, R185, R192, R199) -/

/-- `KeyHandler` for a code whose action is `action` (R192). A dump changes no state; its listing is a report. -/
def keyHandler (action : KeyAction) (s : State) : State :=
  match action with
  | .toggleDiag => { s with diag := !s.diag }
  | .greeting => consoleAccept (.str Config.greeting) s
  | .dump _ _ => s
  | .nothing => s

/-- The keyboard arm (R178). -/
def serviceKeyboard (s : State) : State :=
  match s.kbdBuf with
  | [] => s
  | code :: rest => keyHandler (Config.keyAction code) { s with kbdBuf := rest }

/-- The console arm (R179): emit the oldest buffered unit. -/
def serviceConsole (s : State) : State :=
  match s.conBuf with
  | [] => s
  | u :: rest => { s with conBuf := rest, out := s.out ++ [u] }

/-- Taking an event (R177, R185): `mode <- 1`, then the hardwired arm its name selects. Nothing is saved and `step`
is not written. -/
def serviceEvent (ev : Event) (s : State) : State :=
  let s := { s with mode := .interruptServicing }
  match ev.name with
  | .keyboard => serviceKeyboard s
  | .console => serviceConsole s
  | .other _ => s

/-- The return from servicing (R177, R185): the empty poll ends the drain loop. -/
def endServicing (s : State) : State := { s with mode := .normal, step := .fetch }

/-- `InterruptCheck()` (R177): one poll. -/
def interruptCheck (s : State) : State :=
  match nextEvent s with
  | (some ev, s') => serviceEvent ev s'
  | (none, s') => endServicing s'

/-- Repeat the interrupt-check phase, at most `fuel + 1` times, up to the empty poll. -/
def drainFor : Nat → State → State
  | 0, s => interruptCheck s
  | fuel + 1, s => if s.queue = [] then interruptCheck s else drainFor fuel (interruptCheck s)

/-- The whole drain loop of R177 with no event from the environment meanwhile. A service consumes one event and posts
at most one Console event, and only a Keyboard event's service posts (R192), so twice the queue's length in servicing
pulses empties it. -/
def drain (s : State) : State := drainFor (2 * s.queue.length) s

/-! ## Halt and the invalid opcode (R143, R180) -/

/-- `Halt()` (R143). -/
def halt (s : State) : State := { s with halted := true }

/-- `raise InvalidOpcode` (R180): `step <- 6`; the report it makes is in `tickReports`. -/
def raiseInvalidOpcode (s : State) : State := { s with step := .interruptCheck }

/-! ## The phases common to all instructions (R92 to R98, R101)

Fetch and the decode phases read one byte at `PC` each, by `MemRead(PC, 1)`, which leaves `PC` in `MAR` and the byte in
`MDR` (R50). Each is written once, for the byte it reads: a tick gives it the cell at `PC`, and a whole instruction's
meaning gives it the instruction's own byte. -/

/-- `Fetch()` reading the opcode byte `b` (R92). -/
def fetchByte (b : Byte) (s : State) : State :=
  { s with mar := s.pc, mdr := b, ir := b, pc := s.pc + 1#16, step := .decode1 }

/-- Decode-1, class `constant`, reading the operand byte `b` (R94). -/
def decode1ConstantByte (b : Byte) (s : State) : State :=
  { s with mar := s.pc, mdr := b, tempStore := b, pc := s.pc + 1#16, step := .execute1 }

/-- Decode-1, class `address`, reading the low address byte `b` (R96). -/
def decode1AddressByte (b : Byte) (s : State) : State :=
  { s with mar := s.pc, mdr := b, lob := some b, pc := s.pc + 1#16, step := .decode2 }

/-- `Decode2()` reading the high address byte `b` (R98). -/
def decode2Byte (b : Byte) (s : State) : State :=
  { s with mar := s.pc, mdr := b, hob := some b, pc := s.pc + 1#16, step := .execute1 }

/-- The state part of decode-1, class `none` (R95): `step <- 3`; execute-1 follows in the same pulse. -/
def decode1None (s : State) : State := { s with step := .execute1 }

/-- `WriteBack()` (R101): `MDR <- A; AUWrite(); step <- 6`. -/
def writeBack (s : State) : Result :=
  andThen (auWrite (setMdr s.a s)) fun s' => .next { s' with step := .interruptCheck }

/-- The state in which execute-1 of an instruction of class `none` begins. -/
def decodedNone (op : Operation) (s : State) : State :=
  decode1None (fetchByte (opcode op) s)

/-- The state in which execute-1 of an instruction of class `constant` begins. -/
def decodedConstant (op : Operation) (imm : Byte) (s : State) : State :=
  decode1ConstantByte imm (fetchByte (opcode op) s)

/-- The state in which execute-1 of an instruction of class `address` begins. -/
def decodedAddress (op : Operation) (addr : Word) (s : State) : State :=
  decode2Byte (hiByte addr) (decode1AddressByte (loByte addr) (fetchByte (opcode op) s))

/-- The end of every instruction but BRK (R102): interrupt-check up to the empty poll. -/
def finish (r : Result) : Result := andThen r fun s => .next (drain s)

/-- An instruction whose only byte is the invalid opcode `b` (R97, R144). -/
def runInvalidOpcode (b : Byte) (s : State) : Result :=
  finish (.next (raiseInvalidOpcode (fetchByte b s)))

/-- The three bytes at `PC`, `PC + 1`, `PC + 2`, modulo 65,536: the longest instruction (R14, R70). -/
def instructionBytes (s : State) : List Byte :=
  [s.cell s.pc, s.cell (s.pc + 1#16), s.cell (s.pc + 2#16)]

/-- Store a list of bytes at `addr` and up, modulo 65,536, in `cells` alone. -/
def placeBytes : List Byte → Word → Memory → Memory
  | [], _, m => m
  | b :: bs, addr, m => placeBytes bs (addr + 1#16) (m.write addr.toNat b)

end Sys2Proof.Machine
end

