-- ==== Sys2Proof/Machine/Arithmetic.lean ====
section
/-! DEFINITION. Add, compare and increment-memory (spec/42_arithmetic_compare.md R130 to R133): the two execute phases of each,
and each instruction's meaning. -/

namespace Sys2Proof.Machine

/-- ADC, execute-1 (R130): `tempStore <- AURead(); step <- 4`. -/
def adcExecute1 (s : State) : Result :=
  andThen (auRead s) fun s' => .next { s' with tempStore := s'.mdr, step := .execute2 }

/-- ADC, execute-2 (R130): `A <- A +_8 tempStore; step <- 6`. No carry in or out (C9). -/
def adcExecute2 (s : State) : State := { s with a := s.a + s.tempStore, step := .interruptCheck }

/-- CPX, execute-1 (R131): `tempStore <- AURead(); step <- 4`. -/
def cpxExecute1 (s : State) : Result :=
  andThen (auRead s) fun s' => .next { s' with tempStore := s'.mdr, step := .execute2 }

/-- CPX, execute-2 (R131): `zFlag <- 1 if tempStore = X else 0; step <- 6`. -/
def cpxExecute2 (s : State) : State := { s with zFlag := compareFlag s.tempStore s.x, step := .interruptCheck }

/-- INC, execute-1 (R132): `A <- AURead(); step <- 4`. -/
def incExecute1 (s : State) : Result :=
  andThen (auRead s) fun s' => .next { s' with a := s'.mdr, step := .execute2 }

/-- INC, execute-2 (R132): `A <- A +_8 1; step <- 5`. -/
def incExecute2 (s : State) : State := { s with a := s.a + 1#8, step := .writeBack }

/-- `ADC addr16` (R130). -/
def execAdc (addr : Word) (s : State) : Result :=
  finish (andThen (adcExecute1 (decodedAddress .adc addr s)) fun s' => .next (adcExecute2 s'))

/-- `CPX addr16` (R131). -/
def execCpx (addr : Word) (s : State) : Result :=
  finish (andThen (cpxExecute1 (decodedAddress .cpx addr s)) fun s' => .next (cpxExecute2 s'))

/-- `INC addr16` (R132): the write goes, in the write-back phase, to the address still in `MAR`. -/
def execInc (addr : Word) (s : State) : Result :=
  finish (andThen (incExecute1 (decodedAddress .inc addr s)) fun s' => writeBack (incExecute2 s'))

end Sys2Proof.Machine
end

