-- ==== Sys2Proof/Machine/Control.lean ====
section
/-! DEFINITION. Branch, no-op and halt (spec/43_control.md R140 to R143). The invalid opcode is `runInvalidOpcode` in `Ops.lean`. -/

namespace Sys2Proof.Machine

/-- BNE, execute-1 (R140): `if zFlag = 0 then PC <- PC +_16 sext_16(tempStore); step <- 6`. -/
def bneExecute1 (s : State) : State :=
  { s with pc := if s.zFlag then s.pc else branchTarget s.pc s.tempStore, step := .interruptCheck }

/-- NOP, execute-1 (R141): `step <- 6`. -/
def nopExecute1 (s : State) : State := { s with step := .interruptCheck }

/-- BRK, execute-1 (R142): `Halt()`; `step` is not written. -/
def brkExecute1 (s : State) : State := halt s

/-- `BNE rel8` (R140). -/
def execBne (rel : Byte) (s : State) : Result := finish (.next (bneExecute1 (decodedConstant .bne rel s)))

/-- `NOP` (R141). -/
def execNop (s : State) : Result := finish (.next (nopExecute1 (decodedNone .nop s)))

/-- `BRK` (R142): no interrupt-check follows; pending events and buffered units stay. -/
def execBrk (s : State) : Result := .next (brkExecute1 (decodedNone .brk s))

end Sys2Proof.Machine
end

