-- ==== Sys2Proof/Machine/SystemCall.lean ====
section
/-! DEFINITION. The system call (spec/44_system_call.md R150 to R156). Its execute-1 is run once per pulse while `step = 3`
(R155), so the meaning of the instruction is a loop over execute-1. -/

namespace Sys2Proof.Machine

/-- One execute-1 pulse of a string call (R152, R153): `step <- 6` when the console reports completion, else `step`
stays as it is. -/
def sysStringPulse (start : Word) (s : State) : State :=
  match consoleOutputString start s with
  | (true, s') => { s' with step := .interruptCheck }
  | (false, s') => s'

/-- SYS, `X = 1` (R151): output the byte in `Y`. -/
def sysOutputByte (s : State) : State :=
  { consoleAccept (.byte s.y) s with step := .interruptCheck }

/-- SYS, execute-1 (R150): select on `X`. -/
def sysExecute1 (s : State) : Result :=
  if s.x = 1#8 then .next (sysOutputByte s)
  else if s.x = 2#8 then .next (sysStringPulse (pageAddress s.pc s.y) s)
  else if s.x = 3#8 then
    match composeAddress s with
    | some start => .next (sysStringPulse start s)
    | none => .fault .composeUnset
  else .next (raiseInvalidOpcode s)

/-- Execute-1 pulses of SYS, at most `pulses` of them, until one leaves step 3, and then the drain loop. If none does,
the instruction is still in step 3 and the next step goes on with it. -/
def sysLoop : Nat → State → Result
  | 0, s => .next s
  | pulses + 1, s =>
    andThen (sysExecute1 s) fun s' => if s'.step = .execute1 then sysLoop pulses s' else .next (drain s')

/-- The execute-1 pulses `exec` gives a system call: one turn of the 65,536 addresses, after which a string without
`0x00` can only go on for ever (R207). Assumption log 9. -/
def sysPulses : Nat := 65536

/-- `SYS` (R150), the form without operand. -/
def execSys (s : State) : Result := sysLoop sysPulses (decodedNone .sys s)

/-- `SYS addr16` (R150, R153). -/
def execSysAddr (addr : Word) (s : State) : Result := sysLoop sysPulses (decodedAddress .sys addr s)

end Sys2Proof.Machine
end

