-- ==== Sys2Proof/Machine/Transfers.lean ====
section
/-! DEFINITION. The loads, the store and the register transfers (spec/41_loads_stores_transfers.md R110 to R121): the execute-1
phase of each, and each instruction's meaning from fetch to the end of interrupt-check. -/

namespace Sys2Proof.Machine

/-! ## Loads of an immediate (R110, R115, R118) -/

/-- LDA immediate, execute-1 (R110): `A <- tempStore; step <- 6`. -/
def ldaImmExecute1 (s : State) : State := { s with a := s.tempStore, step := .interruptCheck }

/-- LDX immediate, execute-1 (R115): `X <- tempStore; step <- 6`. -/
def ldxImmExecute1 (s : State) : State := { s with x := s.tempStore, step := .interruptCheck }

/-- LDY immediate, execute-1 (R118): `Y <- tempStore; step <- 6`. -/
def ldyImmExecute1 (s : State) : State := { s with y := s.tempStore, step := .interruptCheck }

/-- `LDA #imm8` (R110). -/
def execLdaImm (imm : Byte) (s : State) : Result := finish (.next (ldaImmExecute1 (decodedConstant .ldaImm imm s)))

/-- `LDX #imm8` (R115). -/
def execLdxImm (imm : Byte) (s : State) : Result := finish (.next (ldxImmExecute1 (decodedConstant .ldxImm imm s)))

/-- `LDY #imm8` (R118). -/
def execLdyImm (imm : Byte) (s : State) : Result := finish (.next (ldyImmExecute1 (decodedConstant .ldyImm imm s)))

/-! ## Loads from memory (R111, R116, R119) -/

/-- LDA absolute, execute-1 (R111): `A <- AURead(); step <- 6`. -/
def ldaAbsExecute1 (s : State) : Result :=
  andThen (auRead s) fun s' => .next { s' with a := s'.mdr, step := .interruptCheck }

/-- LDX absolute, execute-1 (R116): `X <- AURead(); step <- 6`. -/
def ldxAbsExecute1 (s : State) : Result :=
  andThen (auRead s) fun s' => .next { s' with x := s'.mdr, step := .interruptCheck }

/-- LDY absolute, execute-1 (R119): `Y <- AURead(); step <- 6`. -/
def ldyAbsExecute1 (s : State) : Result :=
  andThen (auRead s) fun s' => .next { s' with y := s'.mdr, step := .interruptCheck }

/-- `LDA addr16` (R111). -/
def execLdaAbs (addr : Word) (s : State) : Result := finish (ldaAbsExecute1 (decodedAddress .ldaAbs addr s))

/-- `LDX addr16` (R116). -/
def execLdxAbs (addr : Word) (s : State) : Result := finish (ldxAbsExecute1 (decodedAddress .ldxAbs addr s))

/-- `LDY addr16` (R119). -/
def execLdyAbs (addr : Word) (s : State) : Result := finish (ldyAbsExecute1 (decodedAddress .ldyAbs addr s))

/-! ## The store (R112) -/

/-- STA, execute-1 (R112): "defer write", `step <- 5`; nothing else changes. -/
def staExecute1 (s : State) : State := { s with step := .writeBack }

/-- `STA addr16` (R112): the store itself is the write-back phase (R101). -/
def execSta (addr : Word) (s : State) : Result := finish (writeBack (staExecute1 (decodedAddress .sta addr s)))

/-! ## Register transfers (R113, R114, R117, R120) -/

/-- TXA, execute-1 (R113): `A <- X; step <- 6`. -/
def txaExecute1 (s : State) : State := { s with a := s.x, step := .interruptCheck }

/-- TYA, execute-1 (R114): `A <- Y; step <- 6`. -/
def tyaExecute1 (s : State) : State := { s with a := s.y, step := .interruptCheck }

/-- TAX, execute-1 (R117): `X <- A; step <- 6`. -/
def taxExecute1 (s : State) : State := { s with x := s.a, step := .interruptCheck }

/-- TAY, execute-1 (R120): `Y <- A; step <- 6`. -/
def tayExecute1 (s : State) : State := { s with y := s.a, step := .interruptCheck }

/-- `TXA` (R113). -/
def execTxa (s : State) : Result := finish (.next (txaExecute1 (decodedNone .txa s)))

/-- `TYA` (R114). -/
def execTya (s : State) : Result := finish (.next (tyaExecute1 (decodedNone .tya s)))

/-- `TAX` (R117). -/
def execTax (s : State) : Result := finish (.next (taxExecute1 (decodedNone .tax s)))

/-- `TAY` (R120). -/
def execTay (s : State) : Result := finish (.next (tayExecute1 (decodedNone .tay s)))

end Sys2Proof.Machine
end

