-- ==== Sys2Proof/Machine/Dispatch.lean ====
section
/-! DEFINITION. The dispatch: one arm per constructor of `Instr`, one meaning each. -/

namespace Sys2Proof.Machine

/-- What an instruction does, from its fetch to the end of its interrupt-check phase (R102, R104). -/
def exec (i : Instr) (s : State) : Host.Outcome State Fault Refusal :=
  match i with
  | .ldaImm imm => Sys2Proof.Machine.execLdaImm imm s
  | .ldaAbs addr => Sys2Proof.Machine.execLdaAbs addr s
  | .sta addr => Sys2Proof.Machine.execSta addr s
  | .txa => Sys2Proof.Machine.execTxa s
  | .tya => Sys2Proof.Machine.execTya s
  | .adc addr => Sys2Proof.Machine.execAdc addr s
  | .ldxImm imm => Sys2Proof.Machine.execLdxImm imm s
  | .ldxAbs addr => Sys2Proof.Machine.execLdxAbs addr s
  | .tax => Sys2Proof.Machine.execTax s
  | .ldyImm imm => Sys2Proof.Machine.execLdyImm imm s
  | .ldyAbs addr => Sys2Proof.Machine.execLdyAbs addr s
  | .tay => Sys2Proof.Machine.execTay s
  | .nop => Sys2Proof.Machine.execNop s
  | .brk => Sys2Proof.Machine.execBrk s
  | .cpx addr => Sys2Proof.Machine.execCpx addr s
  | .bne rel => Sys2Proof.Machine.execBne rel s
  | .inc addr => Sys2Proof.Machine.execInc addr s
  | .sys => Sys2Proof.Machine.execSys s
  | .sysAddr addr => Sys2Proof.Machine.execSysAddr addr s

end Sys2Proof.Machine
end

