-- ==== Sys2Proof/Machine/Pipeline.lean ====
section
/-! DEFINITION. The seven-phase state machine, one phase per pulse (spec/40_pipeline.md R90 to R103), and the reports a tick
makes to the host (spec/60_exceptions.md R183, R191, R192). -/

namespace Sys2Proof.Machine

/-- `Fetch()` (R92). -/
def fetch (s : State) : State := fetchByte (s.cell s.pc) s

/-- `Execute1()` (R99): the execute-1 arm of the operation in `IR`. With no arm, the failure policy of R103; a valid
opcode always has one, so that case cannot be reached (assumption log 10). -/
def execute1 (s : State) : Result :=
  match operationOf s.ir with
  | some .ldaImm => .next (ldaImmExecute1 s)
  | some .ldaAbs => ldaAbsExecute1 s
  | some .sta => .next (staExecute1 s)
  | some .txa => .next (txaExecute1 s)
  | some .tya => .next (tyaExecute1 s)
  | some .adc => adcExecute1 s
  | some .ldxImm => .next (ldxImmExecute1 s)
  | some .ldxAbs => ldxAbsExecute1 s
  | some .tax => .next (taxExecute1 s)
  | some .ldyImm => .next (ldyImmExecute1 s)
  | some .ldyAbs => ldyAbsExecute1 s
  | some .tay => .next (tayExecute1 s)
  | some .nop => .next (nopExecute1 s)
  | some .brk => .next (brkExecute1 s)
  | some .cpx => cpxExecute1 s
  | some .bne => .next (bneExecute1 s)
  | some .inc => incExecute1 s
  | some .sys => sysExecute1 s
  | none => .next (raiseInvalidOpcode s)

/-- `Execute2()` (R100): ADC, CPX and INC only. Any other `IR` cannot be reached; it takes the source's policy for an
opcode with no execute entry (assumption log 10). -/
def execute2 (s : State) : State :=
  match operationOf s.ir with
  | some .adc => adcExecute2 s
  | some .cpx => cpxExecute2 s
  | some .inc => incExecute2 s
  | some .ldaImm | some .ldaAbs | some .sta | some .txa | some .tya | some .ldxImm | some .ldxAbs | some .tax
  | some .ldyImm | some .ldyAbs | some .tay | some .nop | some .brk | some .bne | some .sys | none =>
    raiseInvalidOpcode s

/-- `Decode1()` (R93): by `Class(IR, X)`. -/
def decode1 (s : State) : Result :=
  match classify s.ir s.x with
  | .constantOperand => .next (decode1ConstantByte (s.cell s.pc) s)
  | .twoByteAddress => .next (decode1AddressByte (s.cell s.pc) s)
  | .noOperand => execute1 (decode1None s)
  | .invalid => .next (raiseInvalidOpcode s)

/-- `Decode2()` (R98). -/
def decode2 (s : State) : State := decode2Byte (s.cell s.pc) s

/-- The CPU's `pulse()` (R91). -/
def cpuPulse (s : State) : Result :=
  match s.step with
  | .fetch => .next (fetch s)
  | .decode1 => decode1 s
  | .decode2 => .next (decode2 s)
  | .execute1 => execute1 s
  | .execute2 => .next (execute2 s)
  | .writeBack => writeBack s
  | .interruptCheck => .next (interruptCheck s)

/-- The Memory's `pulse()` changes no state (R53, D9). -/
def memoryPulse (s : State) : State := s

/-- The Address Unit's `pulse()` changes no state (R53, D9). -/
def addressUnitPulse (s : State) : State := s

/-- The Interrupt Controller's `pulse()` changes no state (R175, D9). -/
def interruptControllerPulse (s : State) : State := s

/-- One `tick` (R90): the four listeners in the fixed order; nothing when the clock is stopped (D10). -/
def tick (s : State) : Result :=
  if s.halted then .next s
  else cpuPulse (interruptControllerPulse (addressUnitPulse (memoryPulse s)))

/-- `n` ticks with no act of the environment between them. -/
def ticks : Nat → State → Result
  | 0, s => .next s
  | n + 1, s => andThen (tick s) (ticks n)

/-! ## Reports (R183, R191): what a tick tells the host; no state -/

/-- `Diag(msg)` (R183): a report only when `diag = 1`. -/
def diagReport (d : Diagnostic) (s : State) : List Report := if s.diag then [.diag d] else []

/-- `dump(first, last)` (R191): each address of the range with its byte, read from the cells directly, or `none` where
the address is invalid. -/
def dumpListing (first last : Nat) (s : State) : List (Nat × Option Byte) :=
  (List.range' first (last + 1 - first)).map fun addr =>
    (addr, if addr < 65536 then some (s.cells.read addr) else none)

/-- The reports of an execute-1 pulse: the invalid system call (R154), and an `IR` with no arm (R103). -/
def execute1Reports (s : State) : List Report :=
  match operationOf s.ir with
  | none => diagReport (.invalidOpcode s.ir) s
  | some op =>
    if op = .sys ∧ s.x ≠ 1#8 ∧ s.x ≠ 2#8 ∧ s.x ≠ 3#8 then diagReport (.invalidSystemCall s.x) s else []

/-- The reports of a decode-1 pulse: the invalid opcode (R97), and those of an execute-1 in the same pulse (R95). -/
def decode1Reports (s : State) : List Report :=
  match classify s.ir s.x with
  | .invalid => diagReport (.invalidOpcode s.ir) s
  | .noOperand => execute1Reports s
  | .constantOperand | .twoByteAddress => []

/-- The reports of an execute-2 pulse: an `IR` with no execute-2 arm (log 10; unreachable). -/
def execute2Reports (s : State) : List Report :=
  match operationOf s.ir with
  | some .adc | some .cpx | some .inc => []
  | some .ldaImm | some .ldaAbs | some .sta | some .txa | some .tya | some .ldxImm | some .ldxAbs | some .tax
  | some .ldyImm | some .ldyAbs | some .tay | some .nop | some .brk | some .bne | some .sys | none =>
    diagReport (.invalidOpcode s.ir) s

/-- The reports of an interrupt-check pulse: the dump a key asks for (R178, R192). -/
def interruptCheckReports (s : State) : List Report :=
  match sortByPriority s.queue, s.kbdBuf with
  | ev :: _, code :: _ =>
    if ev.name = .keyboard then
      match Config.keyAction code with
      | .dump first last => [.dump (dumpListing first last s)]
      | .toggleDiag | .greeting | .nothing => []
    else []
  | _ :: _, [] => []
  | [], _ => []

/-- The reports the tick at `s` makes. -/
def tickReports (s : State) : List Report :=
  if s.halted then []
  else
    match s.step with
    | .decode1 => decode1Reports s
    | .execute1 => execute1Reports s
    | .execute2 => execute2Reports s
    | .interruptCheck => interruptCheckReports s
    | .fetch | .decode2 | .writeBack => []

end Sys2Proof.Machine
end

