-- ==== Sys2Proof/Machine/Step.lean ====
section
/-! DEFINITION. The host's `step`: one whole instruction at an instruction boundary (`step = 0`), one tick inside an
instruction, nothing after the halt. Every state it answers with is a state the ticks of R90 reach; see assumption
log 9. `withFetchWord` places an instruction where the next fetch reads it. -/

namespace Sys2Proof.Machine

/-- One step. -/
def step (s : State) : Host.Outcome State Fault Refusal :=
  if s.halted then .next s
  else if s.step = .fetch then
    match decode s.x (instructionBytes s) with
    | .ok (i, _) => exec i s
    | .error _ => runInvalidOpcode (s.cell s.pc) s
  else tick s

/-- The value of `X` with which a table row's word decodes as that row: the two rows of SYS differ by `X` alone (R77),
and no other word depends on it. -/
def fetchWordX (x : Byte) (nbits w : Nat) : Byte :=
  if operationOf (BitVec.ofNat 8 (w % 2 ^ nbits)) = some .sys then
    if tableX nbits = 3#8 then 3#8 else if x = 3#8 then 0#8 else x
  else x

/-- `s` at an instruction boundary, its clock running, with the bytes of the table word at `PC`, and with the `X` that
selects the row where the row is one of SYS (assumption log 11). -/
def State.withFetchWord (s : State) (nbits w : Nat) : State :=
  { s with
    cells := placeBytes (tableBytes nbits w) s.pc s.cells
    step := .fetch
    halted := false
    x := fetchWordX s.x nbits w }

end Sys2Proof.Machine
end

