-- ==== Sys2Proof/Machine/Environment.lean ====
section
/-! DEFINITION. What the host and the environment may do to the machine between ticks (spec/70_reset_and_hazards.md R218,
spec/10_state.md R32, spec/20_memory.md R52, spec/60_exceptions.md R176, R189, R191). -/

namespace Sys2Proof.Machine

/-- `load`'s loop (R52): `MemWrite(start + i, 1, bytes[i])` for each `i` in order. -/
def loadBytes : List Nat → Word → State → State
  | [], _, s => s
  | b :: bs, addr, s => loadBytes bs (addr + 1#16) (memWrite addr (BitVec.ofNat 8 b) s)

/-- `load(bytes, start)` (R52): refused whole when it does not fit. The address is checked first (assumption log 12).
It is a move of the host before the first tick only (R202, R218). -/
def load (bytes : List Nat) (start : Nat) (s : State) : Result :=
  if loadAddressesFit bytes start = false then .refused .addressOutOfRange
  else if loadValuesFit bytes = false then .refused .valueOutOfRange
  else .next (loadBytes bytes (BitVec.ofNat 16 start) s)

/-- `key(code)` (R189), `code` in 0 to 127, hence 7 bits. -/
def key (code : BitVec 7) (s : State) : State :=
  post keyboardEvent { s with kbdBuf := s.kbdBuf ++ [code.setWidth 8] }

/-- The moves of R218 that change the state, and `dump`, which does not. -/
inductive Move where
  | reset
  | load (bytes : List Nat) (start : Nat)
  | tick
  | key (code : BitVec 7)
  | post (ev : Event)
  | dump (first last : Nat)
deriving DecidableEq, Repr

/-- What a move does to the state. -/
def perform (m : Move) (s : State) : Result :=
  match m with
  | .reset => .next State.reset
  | .load bytes start => load bytes start s
  | .tick => tick s
  | .key code => .next (key code s)
  | .post ev => .next (post ev s)
  | .dump _ _ => .next s

/-- What a move reports to the host. -/
def moveReports (m : Move) (s : State) : List Report :=
  match m with
  | .tick => tickReports s
  | .dump first last => [.dump (dumpListing first last s)]
  | .reset | .load _ _ | .key _ | .post _ => []

end Sys2Proof.Machine
end

