-- ==== Sys2Proof/Safety.lean ====
section
/-! DEFINITION. What holds of a run: the invariants of spec/10_state.md R35 and of the rules around it, and the states a run
can reach by the moves of spec/70_reset_and_hazards.md R202, R218. -/

namespace Sys2Proof.Machine

/-- The queue invariant (R172): ascending by `priority`. -/
def QueueSorted (q : List Event) : Prop := q.Pairwise fun e f => e.priority ≤ f.priority

/-- The phases a value of `IR` can be in (R98, R99, R100, R101): decode-2 only with an opcode of class `address`,
execute-1 only with a valid opcode, execute-2 only with ADC, CPX or INC, write-back only with STA or INC. -/
def PhaseMatchesIr (s : State) : Prop :=
  match s.step with
  | .decode2 => classify s.ir s.x = .twoByteAddress
  | .execute1 => classify s.ir s.x ≠ .invalid
  | .execute2 => s.ir = opcode .adc ∨ s.ir = opcode .cpx ∨ s.ir = opcode .inc
  | .writeBack => s.ir = opcode .sta ∨ s.ir = opcode .inc
  | .fetch | .decode1 | .interruptCheck => True

/-- The invariant of the machine, at every pulse boundary. -/
structure State.Inv (s : State) : Prop where
  /-- The memory is in its canonical form. -/
  memory : s.cells.wf = true
  /-- R35(c), R172. -/
  queue : QueueSorted s.queue
  /-- R35(b): both halves set or both unset, but between decode-1 and decode-2. -/
  halves : s.step ≠ .decode2 → s.hob.isSome = s.lob.isSome
  /-- R35(b): between decode-1 and decode-2 of a two-byte-address instruction `lob` is set. -/
  lowHalf : s.step = .decode2 → s.lob.isSome = true
  /-- R98 to R101. -/
  phase : PhaseMatchesIr s
  /-- R98: when execute-1 of a two-byte-address instruction begins, the address is there. -/
  operand : s.step = .execute1 → classify s.ir s.x = .twoByteAddress → s.lob.isSome = true
  /-- R112: STA's address is still there at write-back. -/
  storeAddress : s.step = .writeBack → s.ir = opcode .sta → s.lob.isSome = true
  /-- R132: the halves are unset when INC writes back, so the write goes to the address in `MAR`. -/
  incAddress : s.step = .execute2 ∨ s.step = .writeBack ∧ s.ir = opcode .inc → s.lob = none
  /-- R188: the cursor counts the bytes accumulated. -/
  cursor : s.strOffset = s.strAccum.length
  /-- R28: a string read from memory never contains `0x00`. -/
  accumulated : ∀ b ∈ s.strAccum, b ≠ 0x00#8
  /-- R155, R188: a string is under way only inside a string system call. -/
  stringInCall : s.strAccum ≠ [] → s.step = .execute1 ∧ s.ir = opcode .sys ∧ (s.x = 2#8 ∨ s.x = 3#8)
  /-- R29, R189: key codes are 7-bit. -/
  keyCodes : ∀ c ∈ s.kbdBuf, c.toNat < 128
  /-- R18: `mode` reads 1 only inside a drain loop. -/
  mode : s.mode = .interruptServicing → s.step = .interruptCheck
  /-- R27, R142: the clock stops in BRK's execute-1. -/
  halted : s.halted = true → s.step = .execute1 ∧ s.ir = opcode .brk

/-- The states before the first tick (R202): reset, then any number of loads. -/
inductive Booted : State → Prop where
  | reset : Booted State.reset
  | load {s t : State} {bytes : List Nat} {start : Nat} : Booted s → load bytes start s = .next t → Booted t

/-- The states a run can reach (R218): from boot, by ticks, key strokes and events of the two defined names, in any
order. -/
inductive Reachable : State → Prop where
  | boot {s : State} : Booted s → Reachable s
  | tick {s t : State} : Reachable s → tick s = .next t → Reachable t
  | key {s : State} (code : BitVec 7) : Reachable s → Reachable (key code s)
  | post {s : State} (ev : Event) : Reachable s → ev.name = .console ∨ ev.name = .keyboard → Reachable (post ev s)

/-- An instruction boundary: the clock runs and the next pulse fetches (R8, R102). -/
def AtBoundary (s : State) : Prop := s.halted = false ∧ s.step = .fetch

/-- A pulse of phase `p` is next. -/
def InPhase (p : Phase) (s : State) : Prop := s.halted = false ∧ s.step = p

/-- No string read is under way; so it is at every boundary a run reaches (`State.Inv`). -/
def NoStringUnderWay (s : State) : Prop := s.strOffset = 0 ∧ s.strAccum = []

/-- The number of pulses of an instruction, a string call (SYS with `X` 2 or 3) apart, with no event pending (R104). -/
def pulseCount (x : Byte) : Operation → Nat
  | .brk => 2
  | .txa | .tya | .tax | .tay | .nop => 3
  | .ldaImm | .ldxImm | .ldyImm | .bne => 4
  | .ldaAbs | .ldxAbs | .ldyAbs => 5
  | .sta | .adc | .cpx => 6
  | .inc => 7
  | .sys => if x = 1#8 then 4 else 3

/-- A safe step: the machine does not stop. -/
def StepIsSafe (s : State) : Prop := ∃ t, step s = .next t

/-- A safe tick: the machine does not stop. -/
def TickIsSafe (s : State) : Prop := ∃ t, tick s = .next t

end Sys2Proof.Machine
end

