-- ==== Sys2Proof/Certificates/Slice0/Obligations.lean ====
section
/-! DEFINITION. The statements for the provers. Each formalises the rules of spec/ its docstring names. -/

open Sys2Proof Sys2Proof.Machine

/-! ## Encoding -/

/-- Decoding the bytes of a well-formed instruction gives it back, with every operand at every value, and leaves the
bytes after it (30_encoding.md R71, R73, R74, R77). -/
def Obligations.DecodeOfEncodeIsTheInstruction : Prop :=
  ∀ (x : Byte) (i : Instr) (rest : List Byte), i.wellFormed x = true → decode x (encode i ++ rest) = .ok (i, rest)

/-- What the decoder reads is well formed, and its encoding is the bytes it read: every word has one meaning
(30_encoding.md R71, R76, R77). -/
def Obligations.EncodeOfDecodeIsTheBytes : Prop :=
  ∀ (x : Byte) (bs : List Byte) (i : Instr) (rest : List Byte), decode x bs = .ok (i, rest) →
    encode i ++ rest = bs ∧ i.wellFormed x = true

/-- A word of every row of the table of R74, written out from the spec's encoding of it, decodes to the instruction it
stands for, and the word of SYS to the form its `X` selects (R74, R75, and the encodings of R110 to R120, R130 to R132,
R140 to R142, R150). The opcode bytes are the spec's decision D1 (log 1), the form of SYS its decision D3 (log 2). -/
def Obligations.SpecWordsDecode : Prop :=
  decode 0x00#8 [0xA9#8, 0x7F#8] = .ok (.ldaImm 0x7F#8, []) ∧
  decode 0x00#8 [0xAD#8, 0x34#8, 0x12#8] = .ok (.ldaAbs 0x1234#16, []) ∧
  decode 0x00#8 [0x8D#8, 0x00#8, 0x02#8] = .ok (.sta 0x0200#16, []) ∧
  decode 0x00#8 [0x8A#8] = .ok (.txa, []) ∧
  decode 0x00#8 [0x98#8] = .ok (.tya, []) ∧
  decode 0x00#8 [0x6D#8, 0x00#8, 0x03#8] = .ok (.adc 0x0300#16, []) ∧
  decode 0x00#8 [0xA2#8, 0x02#8] = .ok (.ldxImm 0x02#8, []) ∧
  decode 0x00#8 [0xAE#8, 0x10#8, 0x00#8] = .ok (.ldxAbs 0x0010#16, []) ∧
  decode 0x00#8 [0xAA#8] = .ok (.tax, []) ∧
  decode 0x00#8 [0xA0#8, 0x06#8] = .ok (.ldyImm 0x06#8, []) ∧
  decode 0x00#8 [0xAC#8, 0xFF#8, 0xFE#8] = .ok (.ldyAbs 0xFEFF#16, []) ∧
  decode 0x00#8 [0xA8#8] = .ok (.tay, []) ∧
  decode 0x00#8 [0xEA#8] = .ok (.nop, []) ∧
  decode 0x00#8 [0x00#8] = .ok (.brk, []) ∧
  decode 0x00#8 [0xEC#8, 0x40#8, 0x00#8] = .ok (.cpx 0x0040#16, []) ∧
  decode 0x00#8 [0xD0#8, 0xF8#8] = .ok (.bne 0xF8#8, []) ∧
  decode 0x00#8 [0xEE#8, 0x01#8, 0x02#8] = .ok (.inc 0x0201#16, []) ∧
  decode 0x03#8 [0xFF#8, 0x10#8, 0x00#8] = .ok (.sysAddr 0x0010#16, []) ∧
  decode 0x02#8 [0xFF#8, 0x10#8, 0x00#8] = .ok (.sys, [0x10#8, 0x00#8])

/-- `Class(IR, X)`, for every byte and every `X`, and the count of the invalid bytes (30_encoding.md R76). The opcode
bytes are the spec's decision D1 (log 1), the two classes of SYS its decision D3 (log 2). -/
def Obligations.ClassOfEveryOpcodeByte : Prop :=
  ∀ ir x : Byte,
    (classify ir x = .constantOperand ↔ ir ∈ [0xA9#8, 0xA2#8, 0xA0#8, 0xD0#8]) ∧
    (classify ir x = .twoByteAddress ↔
      ir ∈ [0xAD#8, 0x8D#8, 0x6D#8, 0xAE#8, 0xAC#8, 0xEC#8, 0xEE#8] ∨ ir = 0xFF#8 ∧ x = 3#8) ∧
    (classify ir x = .noOperand ↔
      ir ∈ [0x8A#8, 0x98#8, 0xAA#8, 0xA8#8, 0xEA#8, 0x00#8] ∨ ir = 0xFF#8 ∧ x ≠ 3#8) ∧
    (classify ir x = .invalid ↔
      ir ∉ [0xA9#8, 0xA2#8, 0xA0#8, 0xD0#8, 0xAD#8, 0x8D#8, 0x6D#8, 0xAE#8, 0xAC#8, 0xEC#8, 0xEE#8, 0x8A#8, 0x98#8,
        0xAA#8, 0xA8#8, 0xEA#8, 0x00#8, 0xFF#8]) ∧
    ((List.range 256).filter fun n => classify (BitVec.ofNat 8 n) x = .invalid).length = 238

/-! ## Memory and the address unit -/

/-- `MemCellRead` and `MemCellWrite`: `MDR` alone, and the one cell alone, change, and in a memory in its canonical form
the cell then reads as `MDR` (20_memory.md R41, R42). -/
def Obligations.CellAccessGoesThroughMarAndMdr : Prop :=
  ∀ s : State,
    memCellRead s = { s with mdr := s.cells.read s.mar.toNat } ∧
    memCellWrite s = { s with cells := (memCellWrite s).cells } ∧
    (∀ a, a ≠ s.mar.toNat → (memCellWrite s).cells.read a = s.cells.read a) ∧
    (s.cells.wf = true → (memCellWrite s).cells.read s.mar.toNat = s.mdr)

/-- The composed address is `hob * 256 + lob`, equally `(hob << 8) | lob`, when both halves are set, and there is none
otherwise; a register-mediated access with exactly one half set is the fault `ComposeUnset`, which is the spec's decision
D29 (20_memory.md R47, R63; 95_test_vectors.md S2). -/
def Obligations.ComposedAddressOrFault : Prop :=
  ∀ s : State,
    (∀ hi lo, s.hob = some hi → s.lob = some lo → ∃ w, composeAddress s = some w ∧
      w.toNat = hi.toNat * 256 + lo.toNat ∧ w = (hi.setWidth 16 <<< 8) ||| lo.setWidth 16) ∧
    (s.hob = none ∨ s.lob = none → composeAddress s = none) ∧
    (s.hob.isSome ≠ s.lob.isSome → auRead s = .fault .composeUnset ∧ auWrite s = .fault .composeUnset)

/-- `AURead()` and `AUWrite()`: at the address in `MAR` when both halves are unset, at the composed address otherwise,
after which the halves are cleared; the byte read is in `MDR`, the byte stored is `MDR` (20_memory.md R48, R49). -/
def Obligations.RegisterMediatedAccess : Prop :=
  ∀ s : State,
    (s.hob = none → s.lob = none →
      auRead s = .next { s with mdr := s.cells.read s.mar.toNat } ∧
      auWrite s = .next { s with cells := s.cells.write s.mar.toNat s.mdr }) ∧
    (∀ hi lo, s.hob = some hi → s.lob = some lo →
      auRead s = .next { s with
        mar := composeWord hi lo, mdr := s.cells.read (composeWord hi lo).toNat, hob := none, lob := none } ∧
      auWrite s = .next { s with
        mar := composeWord hi lo, cells := s.cells.write (composeWord hi lo).toNat s.mdr, hob := none, lob := none })

/-! ## The pulses common to all instructions -/

/-- Fetch, whatever events are pending (40_pipeline.md R92). -/
def Obligations.FetchPulse : Prop :=
  ∀ s : State, InPhase .fetch s → tick s = .next
    { s with
      ir := s.cells.read s.pc.toNat, mar := s.pc, mdr := s.cells.read s.pc.toNat, pc := s.pc + 1#16, step := .decode1 }

/-- Decode-1 by class: the constant operand goes to `tempStore`, the low address byte to `lob`; an opcode without
operand runs execute-1 in the same pulse; an invalid one is reported, if diagnostics are on, and discarded
(40_pipeline.md R94, R95, R96, R97). -/
def Obligations.Decode1PulseByClass : Prop :=
  ∀ s : State, InPhase .decode1 s →
    (classify s.ir s.x = .constantOperand → tick s = .next
      { s with
        tempStore := s.cells.read s.pc.toNat, mar := s.pc, mdr := s.cells.read s.pc.toNat, pc := s.pc + 1#16,
        step := .execute1 }) ∧
    (classify s.ir s.x = .twoByteAddress → tick s = .next
      { s with
        lob := some (s.cells.read s.pc.toNat), mar := s.pc, mdr := s.cells.read s.pc.toNat, pc := s.pc + 1#16,
        step := .decode2 }) ∧
    (classify s.ir s.x = .noOperand → tick s = execute1 { s with step := .execute1 }) ∧
    (classify s.ir s.x = .invalid → tick s = .next { s with step := .interruptCheck } ∧
      tickReports s = if s.diag then [.diag (.invalidOpcode s.ir)] else [])

/-- Decode-2: the high address byte goes to `hob`, and with `lob` set the address is there (40_pipeline.md R98;
20_memory.md R54). -/
def Obligations.Decode2Pulse : Prop :=
  ∀ s : State, InPhase .decode2 s → ∃ t, tick s = .next t ∧
    t = { s with
      hob := some (s.cells.read s.pc.toNat), mar := s.pc, mdr := s.cells.read s.pc.toNat, pc := s.pc + 1#16,
      step := .execute1 } ∧
    ∀ lo, s.lob = some lo → composeAddress t = some (composeWord (s.cells.read s.pc.toNat) lo)

/-- Write-back: `MDR <- A`, then the register-mediated write, then step 6 (40_pipeline.md R101). -/
def Obligations.WriteBackPulse : Prop :=
  ∀ s : State, InPhase .writeBack s →
    (s.hob = none → s.lob = none → tick s =
      .next { s with mdr := s.a, cells := s.cells.write s.mar.toNat s.a, step := .interruptCheck }) ∧
    (∀ hi lo, s.hob = some hi → s.lob = some lo → tick s =
      .next { s with
        mdr := s.a, mar := composeWord hi lo, cells := s.cells.write (composeWord hi lo).toNat s.a, hob := none,
        lob := none, step := .interruptCheck })

/-- Once the clock is stopped nothing changes any more (40_pipeline.md R90; 43_control.md R143). -/
def Obligations.NothingChangesAfterTheHalt : Prop :=
  ∀ s : State, s.halted = true → (∀ n, ticks n s = .next s) ∧ step s = .next s ∧ tickReports s = []

/-! ## The instructions

Each statement of a result gives the state in which the instruction's interrupt-check begins; `drain` is the loop of
R177, about which `DrainLoopEndsAtTheNextFetch` and the statements after it speak. An opcode byte is written `opcode op`:
the byte values are R75's, the spec's decision D1 (assumption log 1), and stand in `SpecWordsDecode`, which gives a word
for every row of the table. -/

/-- LDA, LDX, LDY immediate: encoding, execute-1, and the whole instruction from any state: the register and
`tempStore` hold the operand, `PC` is 2 further, and no flag, no other register and no cell changes
(41_loads_stores_transfers.md R110, R115, R118). -/
def Obligations.LoadImmediate : Prop :=
  ∀ (imm : Byte) (s : State),
    encode (.ldaImm imm) = [opcode .ldaImm, imm] ∧ encode (.ldxImm imm) = [opcode .ldxImm, imm] ∧
    encode (.ldyImm imm) = [opcode .ldyImm, imm] ∧
    (InPhase .execute1 s → s.ir = opcode .ldaImm →
      tick s = .next { s with a := s.tempStore, step := .interruptCheck }) ∧
    (InPhase .execute1 s → s.ir = opcode .ldxImm →
      tick s = .next { s with x := s.tempStore, step := .interruptCheck }) ∧
    (InPhase .execute1 s → s.ir = opcode .ldyImm →
      tick s = .next { s with y := s.tempStore, step := .interruptCheck }) ∧
    exec (.ldaImm imm) s = .next (drain { s with
      ir := opcode .ldaImm, mar := s.pc + 1#16, mdr := imm, pc := s.pc + 2#16, tempStore := imm, a := imm,
      step := .interruptCheck }) ∧
    exec (.ldxImm imm) s = .next (drain { s with
      ir := opcode .ldxImm, mar := s.pc + 1#16, mdr := imm, pc := s.pc + 2#16, tempStore := imm, x := imm,
      step := .interruptCheck }) ∧
    exec (.ldyImm imm) s = .next (drain { s with
      ir := opcode .ldyImm, mar := s.pc + 1#16, mdr := imm, pc := s.pc + 2#16, tempStore := imm, y := imm,
      step := .interruptCheck })

/-- LDA, LDX, LDY absolute: encoding, execute-1, and the whole instruction: the register and `MDR` hold the byte at
the address, `MAR` the address, both halves are unset, `PC` is 3 further, and no flag, no other register and no cell
changes (41_loads_stores_transfers.md R111, R116, R119). -/
def Obligations.LoadAbsolute : Prop :=
  ∀ (addr : Word) (s : State),
    encode (.ldaAbs addr) = [opcode .ldaAbs, loByte addr, hiByte addr] ∧
    encode (.ldxAbs addr) = [opcode .ldxAbs, loByte addr, hiByte addr] ∧
    encode (.ldyAbs addr) = [opcode .ldyAbs, loByte addr, hiByte addr] ∧
    (∀ hi lo, InPhase .execute1 s → s.hob = some hi → s.lob = some lo →
      (s.ir = opcode .ldaAbs → tick s = .next { s with
        mar := composeWord hi lo, mdr := s.cells.read (composeWord hi lo).toNat, hob := none, lob := none,
        a := s.cells.read (composeWord hi lo).toNat, step := .interruptCheck }) ∧
      (s.ir = opcode .ldxAbs → tick s = .next { s with
        mar := composeWord hi lo, mdr := s.cells.read (composeWord hi lo).toNat, hob := none, lob := none,
        x := s.cells.read (composeWord hi lo).toNat, step := .interruptCheck }) ∧
      (s.ir = opcode .ldyAbs → tick s = .next { s with
        mar := composeWord hi lo, mdr := s.cells.read (composeWord hi lo).toNat, hob := none, lob := none,
        y := s.cells.read (composeWord hi lo).toNat, step := .interruptCheck })) ∧
    exec (.ldaAbs addr) s = .next (drain { s with
      ir := opcode .ldaAbs, mar := addr, mdr := s.cells.read addr.toNat, pc := s.pc + 3#16, hob := none, lob := none,
      a := s.cells.read addr.toNat, step := .interruptCheck }) ∧
    exec (.ldxAbs addr) s = .next (drain { s with
      ir := opcode .ldxAbs, mar := addr, mdr := s.cells.read addr.toNat, pc := s.pc + 3#16, hob := none, lob := none,
      x := s.cells.read addr.toNat, step := .interruptCheck }) ∧
    exec (.ldyAbs addr) s = .next (drain { s with
      ir := opcode .ldyAbs, mar := addr, mdr := s.cells.read addr.toNat, pc := s.pc + 3#16, hob := none, lob := none,
      y := s.cells.read addr.toNat, step := .interruptCheck })

/-- TXA, TYA, TAX, TAY: encoding, execute-1 (in the decode-1 pulse), and the whole instruction: the target holds the
source, the source and everything else are unchanged (41_loads_stores_transfers.md R113, R114, R117, R120). -/
def Obligations.RegisterTransfer : Prop :=
  ∀ s : State,
    encode .txa = [opcode .txa] ∧ encode .tya = [opcode .tya] ∧
    encode .tax = [opcode .tax] ∧ encode .tay = [opcode .tay] ∧
    (InPhase .decode1 s ∨ InPhase .execute1 s →
      (s.ir = opcode .txa → tick s = .next { s with a := s.x, step := .interruptCheck }) ∧
      (s.ir = opcode .tya → tick s = .next { s with a := s.y, step := .interruptCheck }) ∧
      (s.ir = opcode .tax → tick s = .next { s with x := s.a, step := .interruptCheck }) ∧
      (s.ir = opcode .tay → tick s = .next { s with y := s.a, step := .interruptCheck })) ∧
    exec .txa s = .next (drain { s with
      ir := opcode .txa, mar := s.pc, mdr := opcode .txa, pc := s.pc + 1#16, a := s.x, step := .interruptCheck }) ∧
    exec .tya s = .next (drain { s with
      ir := opcode .tya, mar := s.pc, mdr := opcode .tya, pc := s.pc + 1#16, a := s.y, step := .interruptCheck }) ∧
    exec .tax s = .next (drain { s with
      ir := opcode .tax, mar := s.pc, mdr := opcode .tax, pc := s.pc + 1#16, x := s.a, step := .interruptCheck }) ∧
    exec .tay s = .next (drain { s with
      ir := opcode .tay, mar := s.pc, mdr := opcode .tay, pc := s.pc + 1#16, y := s.a, step := .interruptCheck })

/-- STA: encoding, execute-1 defers the write, and the whole instruction stores `A` at the address; in a memory in its
canonical form the cell then reads as `A` (41_loads_stores_transfers.md R112; 40_pipeline.md R101). -/
def Obligations.StoreAccumulator : Prop :=
  ∀ (addr : Word) (s : State),
    encode (.sta addr) = [opcode .sta, loByte addr, hiByte addr] ∧
    (InPhase .execute1 s → s.ir = opcode .sta → tick s = .next { s with step := .writeBack }) ∧
    exec (.sta addr) s = .next (drain { s with
      ir := opcode .sta, mar := addr, mdr := s.a, pc := s.pc + 3#16, hob := none, lob := none,
      cells := s.cells.write addr.toNat s.a, step := .interruptCheck }) ∧
    (s.cells.wf = true → ∀ t, exec (.sta addr) s = .next t → t.cells.read addr.toNat = s.a)

/-- ADC: encoding, the two execute phases, and the whole instruction: `A` is the sum modulo 256, with no carry in
and no carry out (42_arithmetic_compare.md R130, R133). -/
def Obligations.AddWithoutCarry : Prop :=
  ∀ (addr : Word) (s : State),
    encode (.adc addr) = [opcode .adc, loByte addr, hiByte addr] ∧
    (∀ hi lo, InPhase .execute1 s → s.ir = opcode .adc → s.hob = some hi → s.lob = some lo → tick s = .next { s with
      mar := composeWord hi lo, mdr := s.cells.read (composeWord hi lo).toNat, hob := none, lob := none,
      tempStore := s.cells.read (composeWord hi lo).toNat, step := .execute2 }) ∧
    (InPhase .execute2 s → s.ir = opcode .adc → tick s = .next { s with a := s.a + s.tempStore, step := .interruptCheck }) ∧
    exec (.adc addr) s = .next (drain { s with
      ir := opcode .adc, mar := addr, mdr := s.cells.read addr.toNat, pc := s.pc + 3#16, hob := none, lob := none,
      tempStore := s.cells.read addr.toNat, a := s.a + s.cells.read addr.toNat, step := .interruptCheck }) ∧
    ∀ t, exec (.adc addr) s = .next t →
      t.a.toNat = (s.a.toNat + (s.cells.read addr.toNat).toNat) % 256 ∧ t.zFlag = s.zFlag

/-- CPX: encoding, the two execute phases, and the whole instruction: `zFlag` says exactly whether the memory
operand equals `X` (42_arithmetic_compare.md R131). -/
def Obligations.CompareWithX : Prop :=
  ∀ (addr : Word) (s : State),
    encode (.cpx addr) = [opcode .cpx, loByte addr, hiByte addr] ∧
    (∀ hi lo, InPhase .execute1 s → s.ir = opcode .cpx → s.hob = some hi → s.lob = some lo → tick s = .next { s with
      mar := composeWord hi lo, mdr := s.cells.read (composeWord hi lo).toNat, hob := none, lob := none,
      tempStore := s.cells.read (composeWord hi lo).toNat, step := .execute2 }) ∧
    (InPhase .execute2 s → s.ir = opcode .cpx → tick s =
      .next { s with zFlag := decide (s.tempStore = s.x), step := .interruptCheck }) ∧
    exec (.cpx addr) s = .next (drain { s with
      ir := opcode .cpx, mar := addr, mdr := s.cells.read addr.toNat, pc := s.pc + 3#16, hob := none, lob := none,
      tempStore := s.cells.read addr.toNat, zFlag := decide (s.cells.read addr.toNat = s.x), step := .interruptCheck })

/-- INC: encoding, the two execute phases, and the whole instruction: the cell and `A` both hold the old
cell plus 1 modulo 256, no flag changes (42_arithmetic_compare.md R132; 70_reset_and_hazards.md R204). -/
def Obligations.IncrementMemory : Prop :=
  ∀ (addr : Word) (s : State),
    encode (.inc addr) = [opcode .inc, loByte addr, hiByte addr] ∧
    (∀ hi lo, InPhase .execute1 s → s.ir = opcode .inc → s.hob = some hi → s.lob = some lo → tick s = .next { s with
      mar := composeWord hi lo, mdr := s.cells.read (composeWord hi lo).toNat, hob := none, lob := none,
      a := s.cells.read (composeWord hi lo).toNat, step := .execute2 }) ∧
    (InPhase .execute2 s → s.ir = opcode .inc → tick s = .next { s with a := s.a + 1#8, step := .writeBack }) ∧
    exec (.inc addr) s = .next (drain { s with
      ir := opcode .inc, mar := addr, mdr := s.cells.read addr.toNat + 1#8, pc := s.pc + 3#16, hob := none, lob := none,
      a := s.cells.read addr.toNat + 1#8, cells := s.cells.write addr.toNat (s.cells.read addr.toNat + 1#8),
      step := .interruptCheck }) ∧
    (s.cells.wf = true → ∀ t, exec (.inc addr) s = .next t →
      (t.cells.read addr.toNat).toNat = ((s.cells.read addr.toNat).toNat + 1) % 256 ∧
        t.a = t.cells.read addr.toNat ∧ t.zFlag = s.zFlag)

/-- BNE: encoding, execute-1, and the whole instruction: with `zFlag = 1` it falls through to the byte after the operand,
where `PC` already is in execute-1; with `zFlag = 0` it goes to that address plus the signed offset, modulo 65,536
(43_control.md R140; the forward wrap is the spec's decision D6, log 16). -/
def Obligations.BranchIfZeroFlagClear : Prop :=
  ∀ (rel : Byte) (s : State),
    encode (.bne rel) = [opcode .bne, rel] ∧
    (InPhase .execute1 s → s.ir = opcode .bne → ∃ target : Word,
      tick s = .next { s with pc := target, step := .interruptCheck } ∧
      (s.zFlag = true → target = s.pc) ∧
      (s.zFlag = false → s.tempStore.toNat ≤ 0x7F → target.toNat = (s.pc.toNat + s.tempStore.toNat) % 65536) ∧
      (s.zFlag = false → 0x80 ≤ s.tempStore.toNat →
        target.toNat = (s.pc.toNat + s.tempStore.toNat + 65536 - 256) % 65536)) ∧
    ∃ target : Word,
      exec (.bne rel) s = .next (drain { s with
        ir := opcode .bne, mar := s.pc + 1#16, mdr := rel, pc := target, tempStore := rel, step := .interruptCheck }) ∧
      (s.zFlag = true → target.toNat = (s.pc.toNat + 2) % 65536) ∧
      (s.zFlag = false → rel.toNat ≤ 0x7F → target.toNat = (s.pc.toNat + 2 + rel.toNat) % 65536) ∧
      (s.zFlag = false → 0x80 ≤ rel.toNat → target.toNat = (s.pc.toNat + 2 + rel.toNat + 65536 - 256) % 65536)

/-- NOP: encoding, execute-1 (in the decode-1 pulse), and the whole instruction: only what every
instruction changes (43_control.md R141). -/
def Obligations.NoOperation : Prop :=
  ∀ s : State,
    encode .nop = [opcode .nop] ∧
    (InPhase .decode1 s ∨ InPhase .execute1 s → s.ir = opcode .nop → tick s = .next { s with step := .interruptCheck }) ∧
    exec .nop s = .next (drain { s with
      ir := opcode .nop, mar := s.pc, mdr := opcode .nop, pc := s.pc + 1#16, step := .interruptCheck })

/-- BRK: encoding, and the whole instruction: the clock stops in step 3, `PC` is one further, and pending events and
buffered units stay unserviced (43_control.md R142, R143; 70_reset_and_hazards.md R208). -/
def Obligations.BreakHaltsTheClock : Prop :=
  ∀ s : State,
    encode .brk = [opcode .brk] ∧
    (InPhase .decode1 s ∨ InPhase .execute1 s → s.ir = opcode .brk → tick s = .next { s with
      step := .execute1, halted := true }) ∧
    exec .brk s = .next { s with
      ir := opcode .brk, mar := s.pc, mdr := opcode .brk, pc := s.pc + 1#16, step := .execute1,
      halted := true }

/-- SYS with `X = 1`: the byte in `Y` is put in the console's buffer with one Console event, and, where nothing else is
pending or buffered, `OUT` gains exactly that byte by the end of the instruction (44_system_call.md R151). -/
def Obligations.SystemCallOutputsTheByteInY : Prop :=
  ∀ s : State, s.x = 1#8 →
    (InPhase .decode1 s ∨ InPhase .execute1 s → s.ir = opcode .sys → tick s = .next { s with
      conBuf := s.conBuf ++ [.byte s.y], queue := sortByPriority (s.queue ++ [consoleEvent]),
      step := .interruptCheck }) ∧
    exec .sys s = .next (drain { s with
      ir := opcode .sys, mar := s.pc, mdr := opcode .sys, pc := s.pc + 1#16, conBuf := s.conBuf ++ [.byte s.y],
      queue := sortByPriority (s.queue ++ [consoleEvent]), step := .interruptCheck }) ∧
    (s.queue = [] → s.conBuf = [] → exec .sys s = .next { s with
      ir := opcode .sys, mar := s.pc, mdr := opcode .sys, pc := s.pc + 1#16, out := s.out ++ [.byte s.y], mode := .normal,
      step := .fetch })

/-- SYS with `X = 2`. A pulse, whatever string is under way and whatever events are pending (the first one in decode-1):
the byte at the cursor of the string at `{hi(PC), Y}` is read; a NUL ends the call at step 6, with the accumulated string
in the console's buffer and one Console event, and any other byte is accumulated in step 3. The whole instruction: the
string at `{hi(PC), Y}`, `PC` being one past the opcode, up to the first NUL, is put in the console's buffer as one unit
without the NUL, with one Console event (44_system_call.md R152, R155; 60_exceptions.md R188; step 3 inside the call is
the spec's decision D13, log 8, the cursor its decision D12, log 19). -/
def Obligations.SystemCallOutputsThePageString : Prop :=
  ∀ (s : State) (start : Word), s.x = 2#8 →
    (∀ b : Byte, InPhase .decode1 s ∨ InPhase .execute1 s → s.ir = opcode .sys → start = composeWord (hiByte s.pc) s.y →
      b = s.cells.read (start + BitVec.ofNat 16 s.strOffset).toNat →
      (b = 0x00#8 → tick s = .next { s with
        mar := start + BitVec.ofNat 16 s.strOffset, mdr := b, conBuf := s.conBuf ++ [.str s.strAccum],
        queue := sortByPriority (s.queue ++ [consoleEvent]), strAccum := [], strOffset := 0,
        step := .interruptCheck }) ∧
      (b ≠ 0x00#8 → tick s = .next { s with
        mar := start + BitVec.ofNat 16 s.strOffset, mdr := b, strAccum := s.strAccum ++ [b],
        strOffset := s.strOffset + 1, step := .execute1 })) ∧
    ∀ n : Nat, NoStringUnderWay s → start = composeWord (hiByte (s.pc + 1#16)) s.y → n < 65536 →
      (∀ k, k < n → s.cells.read (start + BitVec.ofNat 16 k).toNat ≠ 0x00#8) →
      s.cells.read (start + BitVec.ofNat 16 n).toNat = 0x00#8 →
      exec .sys s = .next (drain { s with
        ir := opcode .sys, pc := s.pc + 1#16, mar := start + BitVec.ofNat 16 n, mdr := 0x00#8,
        conBuf := s.conBuf ++ [.str ((List.range n).map fun k => s.cells.read (start + BitVec.ofNat 16 k).toNat)],
        queue := sortByPriority (s.queue ++ [consoleEvent]), step := .interruptCheck })

/-- SYS with `X = 3`: the same for the string at the composed address, in each pulse of execute-1 and in the whole
instruction; `hob` and `lob` stay set to the operand (44_system_call.md R153, R155; 60_exceptions.md R188;
70_reset_and_hazards.md R206; logs 8 and 19). -/
def Obligations.SystemCallOutputsTheAddressedString : Prop :=
  ∀ s : State, s.x = 3#8 →
    (∀ (hi lo b : Byte) (start : Word), InPhase .execute1 s → s.ir = opcode .sys → s.hob = some hi → s.lob = some lo →
      start = composeWord hi lo → b = s.cells.read (start + BitVec.ofNat 16 s.strOffset).toNat →
      (b = 0x00#8 → tick s = .next { s with
        mar := start + BitVec.ofNat 16 s.strOffset, mdr := b, conBuf := s.conBuf ++ [.str s.strAccum],
        queue := sortByPriority (s.queue ++ [consoleEvent]), strAccum := [], strOffset := 0,
        step := .interruptCheck }) ∧
      (b ≠ 0x00#8 → tick s = .next { s with
        mar := start + BitVec.ofNat 16 s.strOffset, mdr := b, strAccum := s.strAccum ++ [b],
        strOffset := s.strOffset + 1 })) ∧
    ∀ (addr : Word) (n : Nat), NoStringUnderWay s → n < 65536 →
      (∀ k, k < n → s.cells.read (addr + BitVec.ofNat 16 k).toNat ≠ 0x00#8) →
      s.cells.read (addr + BitVec.ofNat 16 n).toNat = 0x00#8 →
      exec (.sysAddr addr) s = .next (drain { s with
        ir := opcode .sys, pc := s.pc + 3#16, mar := addr + BitVec.ofNat 16 n, mdr := 0x00#8,
        hob := some (hiByte addr), lob := some (loByte addr),
        conBuf := s.conBuf ++ [.str ((List.range n).map fun k => s.cells.read (addr + BitVec.ofNat 16 k).toNat)],
        queue := sortByPriority (s.queue ++ [consoleEvent]), step := .interruptCheck })

/-- SYS with `X` outside 1, 2, 3: nothing is output and no event is posted; the pulse reports it if diagnostics are on
(44_system_call.md R154; the spec's decision D4). -/
def Obligations.SystemCallOfAnotherNumberDoesNothing : Prop :=
  ∀ s : State, s.x ≠ 1#8 → s.x ≠ 2#8 → s.x ≠ 3#8 →
    exec .sys s = .next (drain { s with
      ir := opcode .sys, mar := s.pc, mdr := opcode .sys, pc := s.pc + 1#16, step := .interruptCheck }) ∧
    (InPhase .decode1 s ∨ InPhase .execute1 s → s.ir = opcode .sys →
      tick s = .next { s with step := .interruptCheck } ∧
        tickReports s = if s.diag then [.diag (.invalidSystemCall s.x)] else [])

/-- A string call over a memory without a NUL never ends: the instruction's step leaves the machine in step 3, and so
does every number of further ticks (70_reset_and_hazards.md R207; 44_system_call.md R155). That the step answers at all is
the model's own cut of a string call at 65,536 pulses (log 9); the number of the step is the spec's D13 (log 8). -/
def Obligations.StringWithoutNulNeverEnds : Prop :=
  ∀ (s : State) (addr : Word), (∀ a : Word, s.cells.read a.toNat ≠ 0x00#8) →
    (s.x = 2#8 → ∃ t, exec .sys s = .next t ∧ ∀ n, ∃ u, ticks n t = .next u ∧ u.step = .execute1) ∧
    (s.x = 3#8 → ∃ t, exec (.sysAddr addr) s = .next t ∧ ∀ n, ∃ u, ticks n t = .next u ∧ u.step = .execute1)

/-- `SYS` without operand executed with `X = 3`, a form decode-1 never gives (R77), would compose an address that is
not there, and stops with the fault of 20_memory.md R63. -/
def Obligations.OperandlessCallWithX3FaultsOnAnUnsetHalf : Prop :=
  ∀ s : State, s.x = 3#8 → s.hob = none ∨ s.lob = none → exec .sys s = .fault .composeUnset

/-- Every well-formed instruction answers a next state, from every state: no instruction can raise an error
(41_loads_stores_transfers.md R121; R130, R131, R132, R140, R141, R142, R150). It does not say that the instruction has
ended there: a string call over a memory without NUL never ends (R207, `StringWithoutNulNeverEnds`), and `exec` answers
for it because the model cuts a string call at 65,536 execute-1 pulses, which is its own choice (log 9). -/
def Obligations.EveryWellFormedInstructionAnswersANextState : Prop :=
  ∀ (i : Instr) (s : State), i.wellFormed s.x = true → ∃ t, exec i s = .next t

/-! ## Frames -/

/-- What the loads, the transfers, ADC, CPX, BNE and NOP leave unchanged, by the table of 10_state.md R34: every cell,
every register and flag the instruction does not write; and, with no event pending, the devices' state. -/
def Obligations.FrameOfTheInstructionsThatStoreNothing : Prop :=
  ∀ (i : Instr) (s t : State), i.operation ∉ [.sta, .inc, .brk, .sys] → exec i s = .next t →
    (∀ a, t.cells.read a = s.cells.read a) ∧
    (i.operation ∈ [.ldaImm, .ldaAbs, .txa, .tya, .adc] ∨ t.a = s.a) ∧
    (i.operation ∈ [.ldxImm, .ldxAbs, .tax] ∨ t.x = s.x) ∧
    (i.operation ∈ [.ldyImm, .ldyAbs, .tay] ∨ t.y = s.y) ∧
    (i.operation = .cpx ∨ t.zFlag = s.zFlag) ∧
    (i.operation ∈ [.ldaImm, .ldxImm, .ldyImm, .bne, .adc, .cpx] ∨ t.tempStore = s.tempStore) ∧
    (i.operation ∈ [.ldaAbs, .ldxAbs, .ldyAbs, .adc, .cpx] ∨ t.hob = s.hob ∧ t.lob = s.lob) ∧
    t.halted = s.halted ∧ t.sources = s.sources ∧ t.strOffset = s.strOffset ∧ t.strAccum = s.strAccum ∧
    (s.queue = [] → t.queue = [] ∧ t.conBuf = s.conBuf ∧ t.out = s.out ∧ t.kbdBuf = s.kbdBuf ∧ t.diag = s.diag)

/-- What STA and INC leave unchanged: every cell but the one stored to, where the address stored to is the one the
write-back uses (the composed address for STA, the `MAR` left by execute-1 for INC), and every register but `A` for
INC (41_loads_stores_transfers.md R112; 42_arithmetic_compare.md R132; 10_state.md R34). -/
def Obligations.FrameOfTheStoringInstructions : Prop :=
  ∀ (addr : Word) (s t : State),
    (exec (.sta addr) s = .next t →
      (∀ w, composeAddress (staExecute1 (decodedAddress .sta addr s)) = some w →
        ∀ a, a ≠ w.toNat → t.cells.read a = s.cells.read a) ∧
      t.a = s.a ∧ t.x = s.x ∧ t.y = s.y ∧ t.zFlag = s.zFlag ∧ t.tempStore = s.tempStore ∧
      t.halted = s.halted ∧ t.sources = s.sources ∧ t.strOffset = s.strOffset ∧ t.strAccum = s.strAccum ∧
      (s.queue = [] → t.queue = [] ∧ t.conBuf = s.conBuf ∧ t.out = s.out ∧ t.kbdBuf = s.kbdBuf ∧ t.diag = s.diag)) ∧
    (exec (.inc addr) s = .next t →
      (∀ u, incExecute1 (decodedAddress .inc addr s) = .next u →
        ∀ a, a ≠ u.mar.toNat → t.cells.read a = s.cells.read a) ∧
      t.x = s.x ∧ t.y = s.y ∧ t.zFlag = s.zFlag ∧ t.tempStore = s.tempStore ∧
      t.halted = s.halted ∧ t.sources = s.sources ∧ t.strOffset = s.strOffset ∧ t.strAccum = s.strAccum ∧
      (s.queue = [] → t.queue = [] ∧ t.conBuf = s.conBuf ∧ t.out = s.out ∧ t.kbdBuf = s.kbdBuf ∧ t.diag = s.diag))

/-- What a system call leaves unchanged: "SYS never changes `A`, `X`, `Y`, `zFlag`, `tempStore`, `cells` or (beyond
decode) `PC`"; nor `halted`, `sources` and, but for an address operand, `hob` and `lob`; and, with no event pending,
the keyboard's state and `diag` (44_system_call.md R150, R153). -/
def Obligations.FrameOfTheSystemCall : Prop :=
  ∀ (i : Instr) (s t : State), i.operation = .sys → i.wellFormed s.x = true → exec i s = .next t →
    (∀ a, t.cells.read a = s.cells.read a) ∧
    t.a = s.a ∧ t.x = s.x ∧ t.y = s.y ∧ t.zFlag = s.zFlag ∧ t.tempStore = s.tempStore ∧
    t.pc = s.pc + BitVec.ofNat 16 (encode i).length ∧
    (i = .sys → t.hob = s.hob ∧ t.lob = s.lob) ∧
    (∀ addr, i = .sysAddr addr → t.hob = some (hiByte addr) ∧ t.lob = some (loByte addr)) ∧
    t.halted = s.halted ∧ t.sources = s.sources ∧
    (s.queue = [] → t.queue = [] ∧ t.kbdBuf = s.kbdBuf ∧ t.diag = s.diag)

/-! ## Interrupts and devices -/

/-- One interrupt-check pulse: the empty poll, and the arm for each kind of event (60_exceptions.md R177, R178, R179,
R199). -/
def Obligations.InterruptCheckPulse : Prop :=
  ∀ s : State, InPhase .interruptCheck s →
    (s.queue = [] → tick s = .next { s with mode := .normal, step := .fetch }) ∧
    ∀ ev rest, sortByPriority s.queue = ev :: rest →
      (ev.name = .keyboard →
        (s.kbdBuf = [] → tick s = .next { s with queue := rest, mode := .interruptServicing }) ∧
        ∀ code codes, s.kbdBuf = code :: codes → tick s = .next (keyHandler (Config.keyAction code)
          { s with queue := rest, mode := .interruptServicing, kbdBuf := codes })) ∧
      (ev.name = .console →
        (s.conBuf = [] → tick s = .next { s with queue := rest, mode := .interruptServicing }) ∧
        ∀ u us, s.conBuf = u :: us → tick s = .next
          { s with queue := rest, mode := .interruptServicing, conBuf := us, out := s.out ++ [u] }) ∧
      (∀ name, ev.name = .other name → tick s = .next { s with queue := rest, mode := .interruptServicing })

/-- The key-handling routine, for every action a key may have, and the dump a key asks for (60_exceptions.md R192,
R191). -/
def Obligations.KeyHandlerActions : Prop :=
  ∀ (s : State) (first last : Nat),
    keyHandler .toggleDiag s = { s with diag := !s.diag } ∧
    keyHandler .greeting s = consoleAccept (.str Config.greeting) s ∧
    keyHandler (.dump first last) s = s ∧
    keyHandler .nothing s = s ∧
    (∀ code codes ev rest, InPhase .interruptCheck s → sortByPriority s.queue = ev :: rest → ev.name = .keyboard →
      s.kbdBuf = code :: codes → tickReports s =
        match Config.keyAction code with
        | .dump a b => [.dump (dumpListing a b s)]
        | .toggleDiag | .greeting | .nothing => [])

/-- `Post` on a sorted queue puts the event behind the last one of no greater priority value and keeps the queue
sorted; no event is dropped or merged (60_exceptions.md R172, R173). -/
def Obligations.PostInsertsBehindItsEquals : Prop :=
  ∀ (s : State) (ev : Event), QueueSorted s.queue →
    ∃ before after, s.queue = before ++ after ∧ post ev s = { s with queue := before ++ ev :: after } ∧
      (∀ e ∈ before, e.priority ≤ ev.priority) ∧ (∀ e ∈ after, ev.priority < e.priority) ∧
      QueueSorted (before ++ ev :: after)

/-- `Next`: on an empty queue it answers "empty"; on any other it answers and removes the front of the stable sort of the
queue: the same events, ascending by `priority`, those of one priority in the order they had. On a sorted queue the
re-sort is a no-op (60_exceptions.md R174, R184). -/
def Obligations.NextTakesTheFrontOfTheStableSort : Prop :=
  ∀ s : State,
    (s.queue = [] → nextEvent s = (none, s)) ∧
    (s.queue ≠ [] → ∃ ev rest, nextEvent s = (some ev, { s with queue := rest }) ∧
      (ev :: rest).Perm s.queue ∧ QueueSorted (ev :: rest) ∧
      ∀ p, (ev :: rest).filter (fun e => e.priority == p) = s.queue.filter (fun e => e.priority == p)) ∧
    (∀ ev rest, QueueSorted s.queue → s.queue = ev :: rest → nextEvent s = (some ev, { s with queue := rest }))

/-- The source's example of the order: a Keyboard event and then a Console event yield the Console event first; two
events of one priority come in post order (60_exceptions.md R184; 95_test_vectors.md S6). -/
def Obligations.ConsoleComesBeforeKeyboard : Prop :=
  ∀ (s : State) (k1 k2 : Event), s.queue = [] → k1.priority = 4 → k2.priority = 4 →
    (post consoleEvent (post keyboardEvent s)).queue = [consoleEvent, keyboardEvent] ∧
    (post k2 (post k1 s)).queue = [k1, k2]

/-- The drain loop, from any state, ends with an empty queue, `mode = 0` and `step = 0`, and changes none of `A`, `X`,
`Y`, `PC`, `IR`, `zFlag`, `tempStore`, `hob`, `lob`, `MAR`, `MDR`, `cells` (60_exceptions.md R177, R185). -/
def Obligations.DrainLoopEndsAtTheNextFetch : Prop :=
  ∀ s : State,
    (drain s).queue = [] ∧ (drain s).mode = .normal ∧ (drain s).step = .fetch ∧
    (drain s).a = s.a ∧ (drain s).x = s.x ∧ (drain s).y = s.y ∧ (drain s).pc = s.pc ∧ (drain s).ir = s.ir ∧
    (drain s).zFlag = s.zFlag ∧ (drain s).tempStore = s.tempStore ∧ (drain s).hob = s.hob ∧ (drain s).lob = s.lob ∧
    (drain s).mar = s.mar ∧ (drain s).mdr = s.mdr ∧ (drain s).cells = s.cells ∧ (drain s).halted = s.halted ∧
    (s.queue = [] → drain s = { s with mode := .normal, step := .fetch })

/-- With `N` events pending and none posted meanwhile there are `N` servicing pulses, and the `N + 1`-th pulse is the
empty poll that returns to fetch (60_exceptions.md R177; 90_conflicts.md C6). No greeting key is buffered, since a
greeting posts an event. -/
def Obligations.DrainTakesOnePulseMoreThanEvents : Prop :=
  ∀ s : State, InPhase .interruptCheck s → (∀ c ∈ s.kbdBuf, Config.keyAction c ≠ .greeting) →
    (∀ n, n ≤ s.queue.length → ∃ t, ticks n s = .next t ∧ t.step = .interruptCheck ∧
      t.queue.length = s.queue.length - n ∧ (0 < n → t.mode = .interruptServicing)) ∧
    ticks (s.queue.length + 1) s = .next (drain s)

/-- One call of the console's string read: one byte at the cursor; a NUL hands the accumulated string over and clears
cursor and accumulator, any other byte lengthens the string (60_exceptions.md R187, R188). -/
def Obligations.ConsoleReadsOneStringBytePerCall : Prop :=
  ∀ (start : Word) (s : State) (b : Byte), b = s.cells.read (start + BitVec.ofNat 16 s.strOffset).toNat →
    (b = 0x00#8 → consoleOutputString start s = (true, { s with
      mar := start + BitVec.ofNat 16 s.strOffset, mdr := b, conBuf := s.conBuf ++ [.str s.strAccum],
      queue := sortByPriority (s.queue ++ [consoleEvent]), strAccum := [], strOffset := 0 })) ∧
    (b ≠ 0x00#8 → consoleOutputString start s = (false, { s with
      mar := start + BitVec.ofNat 16 s.strOffset, mdr := b, strAccum := s.strAccum ++ [b],
      strOffset := s.strOffset + 1 }))

/-- An interrupt is serviced at step 6 only: a tick in any other phase leaves the devices' output and input, `diag` and
`mode` alone, and to the queue it can only add one Console event, by a system call (40_pipeline.md R105;
60_exceptions.md R176, R184). -/
def Obligations.NoEventIsServicedBeforeStep6 : Prop :=
  ∀ s t : State, s.step ≠ .interruptCheck → tick s = .next t →
    t.out = s.out ∧ t.kbdBuf = s.kbdBuf ∧ t.diag = s.diag ∧ t.mode = s.mode ∧
    (t.queue = s.queue ∧ t.conBuf = s.conBuf ∨
      s.ir = opcode .sys ∧ t.queue = sortByPriority (s.queue ++ [consoleEvent]) ∧ ∃ u, t.conBuf = s.conBuf ++ [u])

/-! ## Whole-machine rules -/

/-- `halted` is set by BRK only, and the halting pulse leaves queue, console buffer and output as they were
(10_state.md R27; 43_control.md R142). -/
def Obligations.OnlyBrkHalts : Prop :=
  ∀ s t : State, s.halted = false → tick s = .next t → t.halted = true →
    s.ir = opcode .brk ∧ (s.step = .decode1 ∨ s.step = .execute1) ∧ t.step = .execute1 ∧ t.queue = s.queue ∧
      t.conBuf = s.conBuf ∧ t.out = s.out

/-- `zFlag` is written by CPX's execute-2 only (10_state.md R16; 70_reset_and_hazards.md R209). -/
def Obligations.OnlyCompareWritesTheZeroFlag : Prop :=
  ∀ s t : State, tick s = .next t → t.zFlag ≠ s.zFlag →
    s.step = .execute2 ∧ s.ir = opcode .cpx ∧ t.zFlag = decide (s.tempStore = s.x)

/-- A cell changes in the write-back phase only, and only the one `MAR` selects (20_memory.md R43, R64;
40_pipeline.md R101). -/
def Obligations.OnlyWriteBackChangesACell : Prop :=
  ∀ (s t : State) (a : Nat), tick s = .next t → t.cells.read a ≠ s.cells.read a →
    s.step = .writeBack ∧ t.mar.toNat = a ∧ t.mdr = s.a

/-- `OUT` is only ever appended to, at most one unit a tick, and only at interrupt-check (10_state.md R28;
60_exceptions.md R179). -/
def Obligations.OutputIsOnlyAppendedTo : Prop :=
  ∀ s t : State, tick s = .next t →
    t.out = s.out ∨ s.step = .interruptCheck ∧ ∃ u, t.out = s.out ++ [u]

/-- No rule reads `diag`, `sources` or `mode`: a tick from a state that differs in one of them differs in that one
alone (10_state.md R18, R26, R30; 60_exceptions.md R175, R183, R194). -/
def Obligations.StatusStateIsNeverRead : Prop :=
  ∀ (s : State) (l : List SourceName) (m : Mode),
    tick { s with diag := !s.diag } = andThen (tick s) (fun t => .next { t with diag := !t.diag }) ∧
    tick { s with sources := l } = andThen (tick s) (fun t => .next { t with sources := l }) ∧
    (s.step ≠ .interruptCheck ∨ s.halted = true →
      tick { s with mode := m } = andThen (tick s) (fun t => .next { t with mode := m })) ∧
    (InPhase .interruptCheck s → tick { s with mode := m } = tick s)

/-! ## Steps and ticks -/

/-- The machine runs the instruction at `PC`: when the bytes there decode to `i`, a step at the boundary is `exec` of
`i`, which itself moves `PC` past the instruction and runs the drain loop (40_pipeline.md R91 to R102). Inside an
instruction a step is one tick. -/
def Obligations.StepRunsTheDecodedInstruction : Prop :=
  ∀ s : State,
    (∀ i rest, AtBoundary s → decode s.x (instructionBytes s) = .ok (i, rest) → step s = exec i s) ∧
    (s.step ≠ .fetch → step s = tick s)

/-- An invalid opcode is discarded as one byte and execution goes on (43_control.md R144; 30_encoding.md R78). -/
def Obligations.InvalidOpcodeIsSkippedAsOneByte : Prop :=
  ∀ s : State, AtBoundary s → classify (s.cells.read s.pc.toNat) s.x = .invalid → step s = .next (drain { s with
    ir := s.cells.read s.pc.toNat, mar := s.pc, mdr := s.cells.read s.pc.toNat, pc := s.pc + 1#16,
    step := .interruptCheck })

/-- A step is a positive number of ticks: at an instruction boundary, with the clock running, the whole-instruction
meaning is what the seven-phase machine does, pulse by pulse (00_scope.md R8; 40_pipeline.md R90, R91, R104). -/
def Obligations.AStepIsANumberOfTicks : Prop :=
  ∀ s : State, ∃ n, 0 < n ∧ ticks n s = step s

/-- The source's property of the whole cycle: LDA immediate, four ticks, with no event pending (40_pipeline.md
R106). -/
def Obligations.LoadImmediateTakesFourTicks : Prop :=
  ∀ (s : State) (v : Byte), AtBoundary s → s.queue = [] → s.cells.read s.pc.toNat = opcode .ldaImm →
    s.cells.read (s.pc + 1#16).toNat = v → ∃ t, ticks 4 s = .next t ∧ t.a = v ∧ t.pc = s.pc + 2#16 ∧ t.step = .fetch ∧
      step s = .next t

/-- The pulse counts of the instructions, the string calls apart, with no event pending: after so many ticks, and not
before, the machine is where the step leaves it, at the next fetch or halted (40_pipeline.md R104, which the spec
derives from its phase rules). -/
def Obligations.PulseCounts : Prop :=
  ∀ s : State, AtBoundary s → s.queue = [] →
    (∀ op, operationOf (s.cells.read s.pc.toNat) = some op → (op = .sys → s.x ≠ 2#8 ∧ s.x ≠ 3#8) →
      ticks (pulseCount s.x op) s = step s ∧
      ∀ k t, 0 < k → k < pulseCount s.x op → ticks k s = .next t → t.step ≠ .fetch ∧ t.halted = false) ∧
    (operationOf (s.cells.read s.pc.toNat) = none → ticks 3 s = step s ∧
      ∀ k t, 0 < k → k < 3 → ticks k s = .next t → t.step ≠ .fetch ∧ t.halted = false)

/-! ## Invariants -/

/-- The invariant holds at reset. -/
def Obligations.ResetMeetsTheInvariant : Prop := State.reset.Inv

/-- From every state that meets the invariant a tick answers a next state, which meets it (10_state.md R35;
20_memory.md R63; 60_exceptions.md R172). -/
def Obligations.TickKeepsTheInvariant : Prop :=
  ∀ s : State, s.Inv → ∃ t, tick s = .next t ∧ t.Inv

/-- From every state that meets the invariant a step answers a next state, which meets it (10_state.md R35). -/
def Obligations.StepKeepsTheInvariant : Prop :=
  ∀ s : State, s.Inv → ∃ t, step s = .next t ∧ t.Inv

/-- The moves of the host and the environment keep the invariant (70_reset_and_hazards.md R218; 60_exceptions.md R172,
R189; 20_memory.md R52). -/
def Obligations.EnvironmentKeepsTheInvariant : Prop :=
  ∀ (s t : State) (m : Move), s.Inv → perform m s = .next t → t.Inv

/-- `ComposeUnset` is never raised: in every state a run can reach, whatever events the environment posts and
whenever, a tick and a step go on (20_memory.md R63; 10_state.md R35; 93_implementation_defined.md U1). -/
def Obligations.NoReachableStateStops : Prop :=
  ∀ s : State, Reachable s → TickIsSafe s ∧ StepIsSafe s

/-! ## Reset and the host's moves -/

/-- The reset of the memory: every cell, `MAR` and `MDR` are zero (20_memory.md R44). -/
def Obligations.ResetClearsTheMemory : Prop :=
  (∀ a, State.reset.cells.read a = 0x00#8) ∧ State.reset.mar = 0x0000#16 ∧ State.reset.mdr = 0x00#8

/-- The other rows of 10_state.md R33, which are the spec's decisions D5, D10, D12, D25 and no statement of the source;
`diag` is the open parameter DIAG_INITIAL (log 5) and `sources` the devices registered at construction (log 6). -/
def Obligations.ResetValuesOfTheOtherState : Prop :=
  State.reset.hob = none ∧ State.reset.lob = none ∧ State.reset.a = 0x00#8 ∧ State.reset.x = 0x00#8 ∧
  State.reset.y = 0x00#8 ∧ State.reset.pc = 0x0000#16 ∧ State.reset.ir = 0x00#8 ∧ State.reset.zFlag = false ∧
  State.reset.step = .fetch ∧ State.reset.mode = .normal ∧ State.reset.tempStore = 0x00#8 ∧ State.reset.queue = [] ∧
  State.reset.halted = false ∧ State.reset.conBuf = [] ∧ State.reset.strAccum = [] ∧ State.reset.kbdBuf = [] ∧
  State.reset.out = [] ∧ State.reset.strOffset = 0 ∧ State.reset.diag = Config.diagInitial ∧
  State.reset.sources = Config.registeredSources

/-- `load`: a request that fits stores its bytes at its addresses and leaves the last address in `MAR` and the last
byte in `MDR`, and nothing else changes, and one of no bytes changes nothing at all; one that does not fit is refused. Which error names a request that fits
neither way is left open here (20_memory.md R52). -/
def Obligations.LoadStoresItsBytesOrIsRefused : Prop :=
  ∀ (bytes : List Nat) (start : Nat) (s : State), s.cells.wf = true →
    (start ≤ 65535 → start + bytes.length ≤ 65536 → (∀ b ∈ bytes, b ≤ 255) → ∃ t, load bytes start s = .next t ∧
      (∀ (k : Nat) (h : k < bytes.length), (t.cells.read (start + k)).toNat = bytes[k]) ∧
      (∀ a, a < start ∨ start + bytes.length ≤ a → t.cells.read a = s.cells.read a) ∧
      (bytes ≠ [] → t.mar.toNat = start + bytes.length - 1 ∧ some t.mdr.toNat = bytes.getLast?) ∧
      (bytes = [] → t = s) ∧
      t = { s with cells := t.cells, mar := t.mar, mdr := t.mdr }) ∧
    (start > 65535 ∨ start + bytes.length > 65536 → (∀ b ∈ bytes, b ≤ 255) →
      load bytes start s = .refused .addressOutOfRange) ∧
    (start ≤ 65535 → start + bytes.length ≤ 65536 → (∃ b ∈ bytes, b > 255) →
      load bytes start s = .refused .valueOutOfRange) ∧
    (start > 65535 ∨ start + bytes.length > 65536 → (∃ b ∈ bytes, b > 255) →
      load bytes start s = .refused .addressOutOfRange ∨ load bytes start s = .refused .valueOutOfRange)

/-- A key stroke adds its 7-bit code to the keyboard's FIFO and posts one Keyboard event of priority 4, and changes
nothing else; a dump changes nothing and lists each address of its range with its byte, or as invalid
(60_exceptions.md R189, R191, R171). The form of a listing, and the empty listing of a dump whose end lies before its
start, are the model's own choice and no rule of the spec (log 26). -/
def Obligations.KeyStrokeAndDump : Prop :=
  ∀ (s : State) (code : BitVec 7) (first last : Nat),
    (∃ c : Byte, c.toNat = code.toNat ∧ key code s =
      { s with kbdBuf := s.kbdBuf ++ [c], queue := sortByPriority (s.queue ++ [keyboardEvent]) }) ∧
    keyboardEvent.priority = 4 ∧ keyboardEvent.name = .keyboard ∧ consoleEvent.priority = 1 ∧
    consoleEvent.name = .console ∧
    perform (.dump first last) s = .next s ∧ moveReports (.dump first last) s = [.dump (dumpListing first last s)] ∧
    (∀ a b, (a, b) ∈ dumpListing first last s ↔
      first ≤ a ∧ a ≤ last ∧ b = if a < 65536 then some (s.cells.read a) else none)
end

