-- ==== Sys2Proof/Laws/Memory.lean ====
section
/-! SUPPORT. The laws of the cells: every memory operation keeps the canonical form, and reads after writes. -/

namespace Sys2Proof.Machine

theorem Memory.wfFrom_nil (low : Nat) : Memory.wfFrom low [] = true := rfl

theorem Memory.wfFrom_cons {low k : Nat} {b : Byte} {m : Memory} :
    Memory.wfFrom low ((k, b) :: m) = true ↔
      low ≤ k ∧ k < 65536 ∧ b ≠ 0#8 ∧ Memory.wfFrom (k + 1) m = true := by
  simp [Memory.wfFrom, and_assoc]

theorem Memory.wfFrom_mono {low low' : Nat} {m : Memory} (h : Memory.wfFrom low m = true) (hl : low' ≤ low) :
    Memory.wfFrom low' m = true := by
  cases m with
  | nil => rfl
  | cons c m =>
    obtain ⟨k, b⟩ := c
    rw [Memory.wfFrom_cons] at h ⊢
    exact ⟨by omega, h.2⟩

/-- Below the first listed address everything reads as zero. -/
theorem Memory.read_eq_zero_of_lt {low addr : Nat} {m : Memory} (h : Memory.wfFrom low m = true) (ha : addr < low) :
    Memory.read m addr = 0#8 := by
  induction m generalizing low with
  | nil => rfl
  | cons c m ih =>
    obtain ⟨k, b⟩ := c
    rw [Memory.wfFrom_cons] at h
    rw [Memory.read, if_neg (by omega)]
    exact ih h.2.2.2 (by omega)

theorem Memory.write_wfFrom {low addr : Nat} {m : Memory} (v : Byte) (h : Memory.wfFrom low m = true)
    (hl : low ≤ addr) (ha : addr < 65536) : Memory.wfFrom low (Memory.write m addr v) = true := by
  induction m generalizing low with
  | nil =>
    by_cases hv : v = 0#8
    · simp [Memory.write, hv, Memory.wfFrom]
    · simp [Memory.write, hv, Memory.wfFrom, hl, ha]
  | cons c m ih =>
    obtain ⟨k, b⟩ := c
    have h' := Memory.wfFrom_cons.mp h
    rw [Memory.write]
    split
    · split
      · exact h
      · rename_i hlt hv
        exact Memory.wfFrom_cons.mpr ⟨hl, ha, hv, Memory.wfFrom_cons.mpr ⟨by omega, h'.2⟩⟩
    · split
      · rename_i heq
        subst heq
        split
        · exact Memory.wfFrom_mono h'.2.2.2 (by omega)
        · rename_i hv
          exact Memory.wfFrom_cons.mpr ⟨hl, ha, hv, h'.2.2.2⟩
      · exact Memory.wfFrom_cons.mpr ⟨h'.1, h'.2.1, h'.2.2.1, ih h'.2.2.2 (by omega)⟩

/-- A write keeps the canonical form. -/
theorem Memory.write_wf {addr : Nat} {m : Memory} (v : Byte) (h : m.wf = true) (ha : addr < 65536) :
    (Memory.write m addr v).wf = true :=
  Memory.write_wfFrom v h (Nat.zero_le _) ha

theorem Memory.read_write_same_from {low addr : Nat} {m : Memory} (v : Byte) (h : Memory.wfFrom low m = true)
    : Memory.read (Memory.write m addr v) addr = v := by
  induction m generalizing low with
  | nil =>
    by_cases hv : v = 0#8 <;> simp [Memory.write, Memory.read, hv]
  | cons c m ih =>
    obtain ⟨k, b⟩ := c
    have h' := Memory.wfFrom_cons.mp h
    rw [Memory.write]
    split
    · split
      · rename_i hlt hv
        rw [hv]
        exact Memory.read_eq_zero_of_lt
          (Memory.wfFrom_cons.mpr ⟨Nat.le_refl _, h'.2⟩) hlt
      · simp [Memory.read]
    · split
      · rename_i heq
        subst heq
        split
        · rename_i hv
          rw [hv]
          exact Memory.read_eq_zero_of_lt h'.2.2.2 (by omega)
        · simp [Memory.read]
      · rename_i hlt hne
        rw [Memory.read, if_neg (by omega)]
        exact ih h'.2.2.2

/-- A read after a write to the same address gives the byte written. -/
theorem Memory.read_write_same {addr : Nat} {m : Memory} (v : Byte) (h : m.wf = true) :
    Memory.read (Memory.write m addr v) addr = v :=
  Memory.read_write_same_from v h

/-- A write leaves every other address as it was. -/
theorem Memory.read_write_other {addr other : Nat} (m : Memory) (v : Byte) (h : other ≠ addr) :
    Memory.read (Memory.write m addr v) other = Memory.read m other := by
  induction m with
  | nil => by_cases hv : v = 0#8 <;> simp [Memory.write, Memory.read, hv, Ne.symm h]
  | cons c m ih =>
    obtain ⟨k, b⟩ := c
    rw [Memory.write]
    split
    · split
      · rfl
      · simp [Memory.read, Ne.symm h]
    · split
      · rename_i heq
        split <;> simp [Memory.read, ← heq, Ne.symm h]
      · by_cases hk : k = other <;> simp [Memory.read, hk, ih]

/-- Placing bytes keeps the canonical form. -/
theorem placeBytes_wf (bs : List Byte) (addr : Word) {m : Memory} (h : m.wf = true) :
    (placeBytes bs addr m).wf = true := by
  induction bs generalizing addr m with
  | nil => exact h
  | cons b bs ih => exact ih (addr + 1#16) (Memory.write_wf b h addr.isLt)

/-- The cell of an address depends on `cells` alone. -/
theorem cell_congr {s t : State} (h : s.cells = t.cells) (addr : Word) : s.cell addr = t.cell addr := by
  simp [State.cell, h]

end Sys2Proof.Machine
end

