-- ==== Sys2Proof/Laws/State.lean ====
section
/-! SUPPORT. For each named update of the state, what it leaves in each field: one lemma per field, true by `rfl`, so that no
proof unfolds a record update. -/

namespace Sys2Proof.Machine

/-! ## `memCellRead` -/

section
variable (s : State)

@[simp] theorem memCellRead_a : (memCellRead s).a = s.a := rfl
@[simp] theorem memCellRead_x : (memCellRead s).x = s.x := rfl
@[simp] theorem memCellRead_y : (memCellRead s).y = s.y := rfl
@[simp] theorem memCellRead_pc : (memCellRead s).pc = s.pc := rfl
@[simp] theorem memCellRead_ir : (memCellRead s).ir = s.ir := rfl
@[simp] theorem memCellRead_zFlag : (memCellRead s).zFlag = s.zFlag := rfl
@[simp] theorem memCellRead_step : (memCellRead s).step = s.step := rfl
@[simp] theorem memCellRead_mode : (memCellRead s).mode = s.mode := rfl
@[simp] theorem memCellRead_tempStore : (memCellRead s).tempStore = s.tempStore := rfl
@[simp] theorem memCellRead_cells : (memCellRead s).cells = s.cells := rfl
@[simp] theorem memCellRead_mar : (memCellRead s).mar = s.mar := rfl
@[simp] theorem memCellRead_mdr : (memCellRead s).mdr = s.cell s.mar := rfl
@[simp] theorem memCellRead_hob : (memCellRead s).hob = s.hob := rfl
@[simp] theorem memCellRead_lob : (memCellRead s).lob = s.lob := rfl
@[simp] theorem memCellRead_queue : (memCellRead s).queue = s.queue := rfl
@[simp] theorem memCellRead_sources : (memCellRead s).sources = s.sources := rfl
@[simp] theorem memCellRead_halted : (memCellRead s).halted = s.halted := rfl
@[simp] theorem memCellRead_conBuf : (memCellRead s).conBuf = s.conBuf := rfl
@[simp] theorem memCellRead_strOffset : (memCellRead s).strOffset = s.strOffset := rfl
@[simp] theorem memCellRead_strAccum : (memCellRead s).strAccum = s.strAccum := rfl
@[simp] theorem memCellRead_out : (memCellRead s).out = s.out := rfl
@[simp] theorem memCellRead_kbdBuf : (memCellRead s).kbdBuf = s.kbdBuf := rfl
@[simp] theorem memCellRead_diag : (memCellRead s).diag = s.diag := rfl

end

/-! ## `memCellWrite` -/

section
variable (s : State)

@[simp] theorem memCellWrite_a : (memCellWrite s).a = s.a := rfl
@[simp] theorem memCellWrite_x : (memCellWrite s).x = s.x := rfl
@[simp] theorem memCellWrite_y : (memCellWrite s).y = s.y := rfl
@[simp] theorem memCellWrite_pc : (memCellWrite s).pc = s.pc := rfl
@[simp] theorem memCellWrite_ir : (memCellWrite s).ir = s.ir := rfl
@[simp] theorem memCellWrite_zFlag : (memCellWrite s).zFlag = s.zFlag := rfl
@[simp] theorem memCellWrite_step : (memCellWrite s).step = s.step := rfl
@[simp] theorem memCellWrite_mode : (memCellWrite s).mode = s.mode := rfl
@[simp] theorem memCellWrite_tempStore : (memCellWrite s).tempStore = s.tempStore := rfl
@[simp] theorem memCellWrite_cells : (memCellWrite s).cells = s.cells.write s.mar.toNat s.mdr := rfl
@[simp] theorem memCellWrite_mar : (memCellWrite s).mar = s.mar := rfl
@[simp] theorem memCellWrite_mdr : (memCellWrite s).mdr = s.mdr := rfl
@[simp] theorem memCellWrite_hob : (memCellWrite s).hob = s.hob := rfl
@[simp] theorem memCellWrite_lob : (memCellWrite s).lob = s.lob := rfl
@[simp] theorem memCellWrite_queue : (memCellWrite s).queue = s.queue := rfl
@[simp] theorem memCellWrite_sources : (memCellWrite s).sources = s.sources := rfl
@[simp] theorem memCellWrite_halted : (memCellWrite s).halted = s.halted := rfl
@[simp] theorem memCellWrite_conBuf : (memCellWrite s).conBuf = s.conBuf := rfl
@[simp] theorem memCellWrite_strOffset : (memCellWrite s).strOffset = s.strOffset := rfl
@[simp] theorem memCellWrite_strAccum : (memCellWrite s).strAccum = s.strAccum := rfl
@[simp] theorem memCellWrite_out : (memCellWrite s).out = s.out := rfl
@[simp] theorem memCellWrite_kbdBuf : (memCellWrite s).kbdBuf = s.kbdBuf := rfl
@[simp] theorem memCellWrite_diag : (memCellWrite s).diag = s.diag := rfl

end

/-! ## `memRead` -/

section
variable (addr : Word) (s : State)

@[simp] theorem memRead_a : (memRead addr s).a = s.a := rfl
@[simp] theorem memRead_x : (memRead addr s).x = s.x := rfl
@[simp] theorem memRead_y : (memRead addr s).y = s.y := rfl
@[simp] theorem memRead_pc : (memRead addr s).pc = s.pc := rfl
@[simp] theorem memRead_ir : (memRead addr s).ir = s.ir := rfl
@[simp] theorem memRead_zFlag : (memRead addr s).zFlag = s.zFlag := rfl
@[simp] theorem memRead_step : (memRead addr s).step = s.step := rfl
@[simp] theorem memRead_mode : (memRead addr s).mode = s.mode := rfl
@[simp] theorem memRead_tempStore : (memRead addr s).tempStore = s.tempStore := rfl
@[simp] theorem memRead_cells : (memRead addr s).cells = s.cells := rfl
@[simp] theorem memRead_mar : (memRead addr s).mar = addr := rfl
@[simp] theorem memRead_mdr : (memRead addr s).mdr = s.cell addr := rfl
@[simp] theorem memRead_hob : (memRead addr s).hob = s.hob := rfl
@[simp] theorem memRead_lob : (memRead addr s).lob = s.lob := rfl
@[simp] theorem memRead_queue : (memRead addr s).queue = s.queue := rfl
@[simp] theorem memRead_sources : (memRead addr s).sources = s.sources := rfl
@[simp] theorem memRead_halted : (memRead addr s).halted = s.halted := rfl
@[simp] theorem memRead_conBuf : (memRead addr s).conBuf = s.conBuf := rfl
@[simp] theorem memRead_strOffset : (memRead addr s).strOffset = s.strOffset := rfl
@[simp] theorem memRead_strAccum : (memRead addr s).strAccum = s.strAccum := rfl
@[simp] theorem memRead_out : (memRead addr s).out = s.out := rfl
@[simp] theorem memRead_kbdBuf : (memRead addr s).kbdBuf = s.kbdBuf := rfl
@[simp] theorem memRead_diag : (memRead addr s).diag = s.diag := rfl

end

/-! ## `memWrite` -/

section
variable (addr : Word) (v : Byte) (s : State)

@[simp] theorem memWrite_a : (memWrite addr v s).a = s.a := rfl
@[simp] theorem memWrite_x : (memWrite addr v s).x = s.x := rfl
@[simp] theorem memWrite_y : (memWrite addr v s).y = s.y := rfl
@[simp] theorem memWrite_pc : (memWrite addr v s).pc = s.pc := rfl
@[simp] theorem memWrite_ir : (memWrite addr v s).ir = s.ir := rfl
@[simp] theorem memWrite_zFlag : (memWrite addr v s).zFlag = s.zFlag := rfl
@[simp] theorem memWrite_step : (memWrite addr v s).step = s.step := rfl
@[simp] theorem memWrite_mode : (memWrite addr v s).mode = s.mode := rfl
@[simp] theorem memWrite_tempStore : (memWrite addr v s).tempStore = s.tempStore := rfl
@[simp] theorem memWrite_cells : (memWrite addr v s).cells = s.cells.write addr.toNat v := rfl
@[simp] theorem memWrite_mar : (memWrite addr v s).mar = addr := rfl
@[simp] theorem memWrite_mdr : (memWrite addr v s).mdr = v := rfl
@[simp] theorem memWrite_hob : (memWrite addr v s).hob = s.hob := rfl
@[simp] theorem memWrite_lob : (memWrite addr v s).lob = s.lob := rfl
@[simp] theorem memWrite_queue : (memWrite addr v s).queue = s.queue := rfl
@[simp] theorem memWrite_sources : (memWrite addr v s).sources = s.sources := rfl
@[simp] theorem memWrite_halted : (memWrite addr v s).halted = s.halted := rfl
@[simp] theorem memWrite_conBuf : (memWrite addr v s).conBuf = s.conBuf := rfl
@[simp] theorem memWrite_strOffset : (memWrite addr v s).strOffset = s.strOffset := rfl
@[simp] theorem memWrite_strAccum : (memWrite addr v s).strAccum = s.strAccum := rfl
@[simp] theorem memWrite_out : (memWrite addr v s).out = s.out := rfl
@[simp] theorem memWrite_kbdBuf : (memWrite addr v s).kbdBuf = s.kbdBuf := rfl
@[simp] theorem memWrite_diag : (memWrite addr v s).diag = s.diag := rfl

end

/-! ## `setLob` -/

section
variable (b : Byte) (s : State)

@[simp] theorem setLob_a : (setLob b s).a = s.a := rfl
@[simp] theorem setLob_x : (setLob b s).x = s.x := rfl
@[simp] theorem setLob_y : (setLob b s).y = s.y := rfl
@[simp] theorem setLob_pc : (setLob b s).pc = s.pc := rfl
@[simp] theorem setLob_ir : (setLob b s).ir = s.ir := rfl
@[simp] theorem setLob_zFlag : (setLob b s).zFlag = s.zFlag := rfl
@[simp] theorem setLob_step : (setLob b s).step = s.step := rfl
@[simp] theorem setLob_mode : (setLob b s).mode = s.mode := rfl
@[simp] theorem setLob_tempStore : (setLob b s).tempStore = s.tempStore := rfl
@[simp] theorem setLob_cells : (setLob b s).cells = s.cells := rfl
@[simp] theorem setLob_mar : (setLob b s).mar = s.mar := rfl
@[simp] theorem setLob_mdr : (setLob b s).mdr = s.mdr := rfl
@[simp] theorem setLob_hob : (setLob b s).hob = s.hob := rfl
@[simp] theorem setLob_lob : (setLob b s).lob = some b := rfl
@[simp] theorem setLob_queue : (setLob b s).queue = s.queue := rfl
@[simp] theorem setLob_sources : (setLob b s).sources = s.sources := rfl
@[simp] theorem setLob_halted : (setLob b s).halted = s.halted := rfl
@[simp] theorem setLob_conBuf : (setLob b s).conBuf = s.conBuf := rfl
@[simp] theorem setLob_strOffset : (setLob b s).strOffset = s.strOffset := rfl
@[simp] theorem setLob_strAccum : (setLob b s).strAccum = s.strAccum := rfl
@[simp] theorem setLob_out : (setLob b s).out = s.out := rfl
@[simp] theorem setLob_kbdBuf : (setLob b s).kbdBuf = s.kbdBuf := rfl
@[simp] theorem setLob_diag : (setLob b s).diag = s.diag := rfl

end

/-! ## `setHob` -/

section
variable (b : Byte) (s : State)

@[simp] theorem setHob_a : (setHob b s).a = s.a := rfl
@[simp] theorem setHob_x : (setHob b s).x = s.x := rfl
@[simp] theorem setHob_y : (setHob b s).y = s.y := rfl
@[simp] theorem setHob_pc : (setHob b s).pc = s.pc := rfl
@[simp] theorem setHob_ir : (setHob b s).ir = s.ir := rfl
@[simp] theorem setHob_zFlag : (setHob b s).zFlag = s.zFlag := rfl
@[simp] theorem setHob_step : (setHob b s).step = s.step := rfl
@[simp] theorem setHob_mode : (setHob b s).mode = s.mode := rfl
@[simp] theorem setHob_tempStore : (setHob b s).tempStore = s.tempStore := rfl
@[simp] theorem setHob_cells : (setHob b s).cells = s.cells := rfl
@[simp] theorem setHob_mar : (setHob b s).mar = s.mar := rfl
@[simp] theorem setHob_mdr : (setHob b s).mdr = s.mdr := rfl
@[simp] theorem setHob_hob : (setHob b s).hob = some b := rfl
@[simp] theorem setHob_lob : (setHob b s).lob = s.lob := rfl
@[simp] theorem setHob_queue : (setHob b s).queue = s.queue := rfl
@[simp] theorem setHob_sources : (setHob b s).sources = s.sources := rfl
@[simp] theorem setHob_halted : (setHob b s).halted = s.halted := rfl
@[simp] theorem setHob_conBuf : (setHob b s).conBuf = s.conBuf := rfl
@[simp] theorem setHob_strOffset : (setHob b s).strOffset = s.strOffset := rfl
@[simp] theorem setHob_strAccum : (setHob b s).strAccum = s.strAccum := rfl
@[simp] theorem setHob_out : (setHob b s).out = s.out := rfl
@[simp] theorem setHob_kbdBuf : (setHob b s).kbdBuf = s.kbdBuf := rfl
@[simp] theorem setHob_diag : (setHob b s).diag = s.diag := rfl

end

/-! ## `setMar` -/

section
variable (addr : Word) (s : State)

@[simp] theorem setMar_a : (setMar addr s).a = s.a := rfl
@[simp] theorem setMar_x : (setMar addr s).x = s.x := rfl
@[simp] theorem setMar_y : (setMar addr s).y = s.y := rfl
@[simp] theorem setMar_pc : (setMar addr s).pc = s.pc := rfl
@[simp] theorem setMar_ir : (setMar addr s).ir = s.ir := rfl
@[simp] theorem setMar_zFlag : (setMar addr s).zFlag = s.zFlag := rfl
@[simp] theorem setMar_step : (setMar addr s).step = s.step := rfl
@[simp] theorem setMar_mode : (setMar addr s).mode = s.mode := rfl
@[simp] theorem setMar_tempStore : (setMar addr s).tempStore = s.tempStore := rfl
@[simp] theorem setMar_cells : (setMar addr s).cells = s.cells := rfl
@[simp] theorem setMar_mar : (setMar addr s).mar = addr := rfl
@[simp] theorem setMar_mdr : (setMar addr s).mdr = s.mdr := rfl
@[simp] theorem setMar_hob : (setMar addr s).hob = s.hob := rfl
@[simp] theorem setMar_lob : (setMar addr s).lob = s.lob := rfl
@[simp] theorem setMar_queue : (setMar addr s).queue = s.queue := rfl
@[simp] theorem setMar_sources : (setMar addr s).sources = s.sources := rfl
@[simp] theorem setMar_halted : (setMar addr s).halted = s.halted := rfl
@[simp] theorem setMar_conBuf : (setMar addr s).conBuf = s.conBuf := rfl
@[simp] theorem setMar_strOffset : (setMar addr s).strOffset = s.strOffset := rfl
@[simp] theorem setMar_strAccum : (setMar addr s).strAccum = s.strAccum := rfl
@[simp] theorem setMar_out : (setMar addr s).out = s.out := rfl
@[simp] theorem setMar_kbdBuf : (setMar addr s).kbdBuf = s.kbdBuf := rfl
@[simp] theorem setMar_diag : (setMar addr s).diag = s.diag := rfl

end

/-! ## `setMdr` -/

section
variable (b : Byte) (s : State)

@[simp] theorem setMdr_a : (setMdr b s).a = s.a := rfl
@[simp] theorem setMdr_x : (setMdr b s).x = s.x := rfl
@[simp] theorem setMdr_y : (setMdr b s).y = s.y := rfl
@[simp] theorem setMdr_pc : (setMdr b s).pc = s.pc := rfl
@[simp] theorem setMdr_ir : (setMdr b s).ir = s.ir := rfl
@[simp] theorem setMdr_zFlag : (setMdr b s).zFlag = s.zFlag := rfl
@[simp] theorem setMdr_step : (setMdr b s).step = s.step := rfl
@[simp] theorem setMdr_mode : (setMdr b s).mode = s.mode := rfl
@[simp] theorem setMdr_tempStore : (setMdr b s).tempStore = s.tempStore := rfl
@[simp] theorem setMdr_cells : (setMdr b s).cells = s.cells := rfl
@[simp] theorem setMdr_mar : (setMdr b s).mar = s.mar := rfl
@[simp] theorem setMdr_mdr : (setMdr b s).mdr = b := rfl
@[simp] theorem setMdr_hob : (setMdr b s).hob = s.hob := rfl
@[simp] theorem setMdr_lob : (setMdr b s).lob = s.lob := rfl
@[simp] theorem setMdr_queue : (setMdr b s).queue = s.queue := rfl
@[simp] theorem setMdr_sources : (setMdr b s).sources = s.sources := rfl
@[simp] theorem setMdr_halted : (setMdr b s).halted = s.halted := rfl
@[simp] theorem setMdr_conBuf : (setMdr b s).conBuf = s.conBuf := rfl
@[simp] theorem setMdr_strOffset : (setMdr b s).strOffset = s.strOffset := rfl
@[simp] theorem setMdr_strAccum : (setMdr b s).strAccum = s.strAccum := rfl
@[simp] theorem setMdr_out : (setMdr b s).out = s.out := rfl
@[simp] theorem setMdr_kbdBuf : (setMdr b s).kbdBuf = s.kbdBuf := rfl
@[simp] theorem setMdr_diag : (setMdr b s).diag = s.diag := rfl

end

/-! ## `clearHalves` -/

section
variable (s : State)

@[simp] theorem clearHalves_a : (clearHalves s).a = s.a := rfl
@[simp] theorem clearHalves_x : (clearHalves s).x = s.x := rfl
@[simp] theorem clearHalves_y : (clearHalves s).y = s.y := rfl
@[simp] theorem clearHalves_pc : (clearHalves s).pc = s.pc := rfl
@[simp] theorem clearHalves_ir : (clearHalves s).ir = s.ir := rfl
@[simp] theorem clearHalves_zFlag : (clearHalves s).zFlag = s.zFlag := rfl
@[simp] theorem clearHalves_step : (clearHalves s).step = s.step := rfl
@[simp] theorem clearHalves_mode : (clearHalves s).mode = s.mode := rfl
@[simp] theorem clearHalves_tempStore : (clearHalves s).tempStore = s.tempStore := rfl
@[simp] theorem clearHalves_cells : (clearHalves s).cells = s.cells := rfl
@[simp] theorem clearHalves_mar : (clearHalves s).mar = s.mar := rfl
@[simp] theorem clearHalves_mdr : (clearHalves s).mdr = s.mdr := rfl
@[simp] theorem clearHalves_hob : (clearHalves s).hob = none := rfl
@[simp] theorem clearHalves_lob : (clearHalves s).lob = none := rfl
@[simp] theorem clearHalves_queue : (clearHalves s).queue = s.queue := rfl
@[simp] theorem clearHalves_sources : (clearHalves s).sources = s.sources := rfl
@[simp] theorem clearHalves_halted : (clearHalves s).halted = s.halted := rfl
@[simp] theorem clearHalves_conBuf : (clearHalves s).conBuf = s.conBuf := rfl
@[simp] theorem clearHalves_strOffset : (clearHalves s).strOffset = s.strOffset := rfl
@[simp] theorem clearHalves_strAccum : (clearHalves s).strAccum = s.strAccum := rfl
@[simp] theorem clearHalves_out : (clearHalves s).out = s.out := rfl
@[simp] theorem clearHalves_kbdBuf : (clearHalves s).kbdBuf = s.kbdBuf := rfl
@[simp] theorem clearHalves_diag : (clearHalves s).diag = s.diag := rfl

end

/-! ## `post` -/

section
variable (ev : Event) (s : State)

@[simp] theorem post_a : (post ev s).a = s.a := rfl
@[simp] theorem post_x : (post ev s).x = s.x := rfl
@[simp] theorem post_y : (post ev s).y = s.y := rfl
@[simp] theorem post_pc : (post ev s).pc = s.pc := rfl
@[simp] theorem post_ir : (post ev s).ir = s.ir := rfl
@[simp] theorem post_zFlag : (post ev s).zFlag = s.zFlag := rfl
@[simp] theorem post_step : (post ev s).step = s.step := rfl
@[simp] theorem post_mode : (post ev s).mode = s.mode := rfl
@[simp] theorem post_tempStore : (post ev s).tempStore = s.tempStore := rfl
@[simp] theorem post_cells : (post ev s).cells = s.cells := rfl
@[simp] theorem post_mar : (post ev s).mar = s.mar := rfl
@[simp] theorem post_mdr : (post ev s).mdr = s.mdr := rfl
@[simp] theorem post_hob : (post ev s).hob = s.hob := rfl
@[simp] theorem post_lob : (post ev s).lob = s.lob := rfl
@[simp] theorem post_queue : (post ev s).queue = sortByPriority (s.queue ++ [ev]) := rfl
@[simp] theorem post_sources : (post ev s).sources = s.sources := rfl
@[simp] theorem post_halted : (post ev s).halted = s.halted := rfl
@[simp] theorem post_conBuf : (post ev s).conBuf = s.conBuf := rfl
@[simp] theorem post_strOffset : (post ev s).strOffset = s.strOffset := rfl
@[simp] theorem post_strAccum : (post ev s).strAccum = s.strAccum := rfl
@[simp] theorem post_out : (post ev s).out = s.out := rfl
@[simp] theorem post_kbdBuf : (post ev s).kbdBuf = s.kbdBuf := rfl
@[simp] theorem post_diag : (post ev s).diag = s.diag := rfl

end

/-! ## `consoleAccept` -/

section
variable (p : OutputUnit) (s : State)

@[simp] theorem consoleAccept_a : (consoleAccept p s).a = s.a := rfl
@[simp] theorem consoleAccept_x : (consoleAccept p s).x = s.x := rfl
@[simp] theorem consoleAccept_y : (consoleAccept p s).y = s.y := rfl
@[simp] theorem consoleAccept_pc : (consoleAccept p s).pc = s.pc := rfl
@[simp] theorem consoleAccept_ir : (consoleAccept p s).ir = s.ir := rfl
@[simp] theorem consoleAccept_zFlag : (consoleAccept p s).zFlag = s.zFlag := rfl
@[simp] theorem consoleAccept_step : (consoleAccept p s).step = s.step := rfl
@[simp] theorem consoleAccept_mode : (consoleAccept p s).mode = s.mode := rfl
@[simp] theorem consoleAccept_tempStore : (consoleAccept p s).tempStore = s.tempStore := rfl
@[simp] theorem consoleAccept_cells : (consoleAccept p s).cells = s.cells := rfl
@[simp] theorem consoleAccept_mar : (consoleAccept p s).mar = s.mar := rfl
@[simp] theorem consoleAccept_mdr : (consoleAccept p s).mdr = s.mdr := rfl
@[simp] theorem consoleAccept_hob : (consoleAccept p s).hob = s.hob := rfl
@[simp] theorem consoleAccept_lob : (consoleAccept p s).lob = s.lob := rfl
@[simp] theorem consoleAccept_queue : (consoleAccept p s).queue = sortByPriority (s.queue ++ [consoleEvent]) := rfl
@[simp] theorem consoleAccept_sources : (consoleAccept p s).sources = s.sources := rfl
@[simp] theorem consoleAccept_halted : (consoleAccept p s).halted = s.halted := rfl
@[simp] theorem consoleAccept_conBuf : (consoleAccept p s).conBuf = s.conBuf ++ [p] := rfl
@[simp] theorem consoleAccept_strOffset : (consoleAccept p s).strOffset = s.strOffset := rfl
@[simp] theorem consoleAccept_strAccum : (consoleAccept p s).strAccum = s.strAccum := rfl
@[simp] theorem consoleAccept_out : (consoleAccept p s).out = s.out := rfl
@[simp] theorem consoleAccept_kbdBuf : (consoleAccept p s).kbdBuf = s.kbdBuf := rfl
@[simp] theorem consoleAccept_diag : (consoleAccept p s).diag = s.diag := rfl

end

/-! ## `halt` -/

section
variable (s : State)

@[simp] theorem halt_a : (halt s).a = s.a := rfl
@[simp] theorem halt_x : (halt s).x = s.x := rfl
@[simp] theorem halt_y : (halt s).y = s.y := rfl
@[simp] theorem halt_pc : (halt s).pc = s.pc := rfl
@[simp] theorem halt_ir : (halt s).ir = s.ir := rfl
@[simp] theorem halt_zFlag : (halt s).zFlag = s.zFlag := rfl
@[simp] theorem halt_step : (halt s).step = s.step := rfl
@[simp] theorem halt_mode : (halt s).mode = s.mode := rfl
@[simp] theorem halt_tempStore : (halt s).tempStore = s.tempStore := rfl
@[simp] theorem halt_cells : (halt s).cells = s.cells := rfl
@[simp] theorem halt_mar : (halt s).mar = s.mar := rfl
@[simp] theorem halt_mdr : (halt s).mdr = s.mdr := rfl
@[simp] theorem halt_hob : (halt s).hob = s.hob := rfl
@[simp] theorem halt_lob : (halt s).lob = s.lob := rfl
@[simp] theorem halt_queue : (halt s).queue = s.queue := rfl
@[simp] theorem halt_sources : (halt s).sources = s.sources := rfl
@[simp] theorem halt_halted : (halt s).halted = true := rfl
@[simp] theorem halt_conBuf : (halt s).conBuf = s.conBuf := rfl
@[simp] theorem halt_strOffset : (halt s).strOffset = s.strOffset := rfl
@[simp] theorem halt_strAccum : (halt s).strAccum = s.strAccum := rfl
@[simp] theorem halt_out : (halt s).out = s.out := rfl
@[simp] theorem halt_kbdBuf : (halt s).kbdBuf = s.kbdBuf := rfl
@[simp] theorem halt_diag : (halt s).diag = s.diag := rfl

end

/-! ## `raiseInvalidOpcode` -/

section
variable (s : State)

@[simp] theorem raiseInvalidOpcode_a : (raiseInvalidOpcode s).a = s.a := rfl
@[simp] theorem raiseInvalidOpcode_x : (raiseInvalidOpcode s).x = s.x := rfl
@[simp] theorem raiseInvalidOpcode_y : (raiseInvalidOpcode s).y = s.y := rfl
@[simp] theorem raiseInvalidOpcode_pc : (raiseInvalidOpcode s).pc = s.pc := rfl
@[simp] theorem raiseInvalidOpcode_ir : (raiseInvalidOpcode s).ir = s.ir := rfl
@[simp] theorem raiseInvalidOpcode_zFlag : (raiseInvalidOpcode s).zFlag = s.zFlag := rfl
@[simp] theorem raiseInvalidOpcode_step : (raiseInvalidOpcode s).step = .interruptCheck := rfl
@[simp] theorem raiseInvalidOpcode_mode : (raiseInvalidOpcode s).mode = s.mode := rfl
@[simp] theorem raiseInvalidOpcode_tempStore : (raiseInvalidOpcode s).tempStore = s.tempStore := rfl
@[simp] theorem raiseInvalidOpcode_cells : (raiseInvalidOpcode s).cells = s.cells := rfl
@[simp] theorem raiseInvalidOpcode_mar : (raiseInvalidOpcode s).mar = s.mar := rfl
@[simp] theorem raiseInvalidOpcode_mdr : (raiseInvalidOpcode s).mdr = s.mdr := rfl
@[simp] theorem raiseInvalidOpcode_hob : (raiseInvalidOpcode s).hob = s.hob := rfl
@[simp] theorem raiseInvalidOpcode_lob : (raiseInvalidOpcode s).lob = s.lob := rfl
@[simp] theorem raiseInvalidOpcode_queue : (raiseInvalidOpcode s).queue = s.queue := rfl
@[simp] theorem raiseInvalidOpcode_sources : (raiseInvalidOpcode s).sources = s.sources := rfl
@[simp] theorem raiseInvalidOpcode_halted : (raiseInvalidOpcode s).halted = s.halted := rfl
@[simp] theorem raiseInvalidOpcode_conBuf : (raiseInvalidOpcode s).conBuf = s.conBuf := rfl
@[simp] theorem raiseInvalidOpcode_strOffset : (raiseInvalidOpcode s).strOffset = s.strOffset := rfl
@[simp] theorem raiseInvalidOpcode_strAccum : (raiseInvalidOpcode s).strAccum = s.strAccum := rfl
@[simp] theorem raiseInvalidOpcode_out : (raiseInvalidOpcode s).out = s.out := rfl
@[simp] theorem raiseInvalidOpcode_kbdBuf : (raiseInvalidOpcode s).kbdBuf = s.kbdBuf := rfl
@[simp] theorem raiseInvalidOpcode_diag : (raiseInvalidOpcode s).diag = s.diag := rfl

end

/-! ## `endServicing` -/

section
variable (s : State)

@[simp] theorem endServicing_a : (endServicing s).a = s.a := rfl
@[simp] theorem endServicing_x : (endServicing s).x = s.x := rfl
@[simp] theorem endServicing_y : (endServicing s).y = s.y := rfl
@[simp] theorem endServicing_pc : (endServicing s).pc = s.pc := rfl
@[simp] theorem endServicing_ir : (endServicing s).ir = s.ir := rfl
@[simp] theorem endServicing_zFlag : (endServicing s).zFlag = s.zFlag := rfl
@[simp] theorem endServicing_step : (endServicing s).step = .fetch := rfl
@[simp] theorem endServicing_mode : (endServicing s).mode = .normal := rfl
@[simp] theorem endServicing_tempStore : (endServicing s).tempStore = s.tempStore := rfl
@[simp] theorem endServicing_cells : (endServicing s).cells = s.cells := rfl
@[simp] theorem endServicing_mar : (endServicing s).mar = s.mar := rfl
@[simp] theorem endServicing_mdr : (endServicing s).mdr = s.mdr := rfl
@[simp] theorem endServicing_hob : (endServicing s).hob = s.hob := rfl
@[simp] theorem endServicing_lob : (endServicing s).lob = s.lob := rfl
@[simp] theorem endServicing_queue : (endServicing s).queue = s.queue := rfl
@[simp] theorem endServicing_sources : (endServicing s).sources = s.sources := rfl
@[simp] theorem endServicing_halted : (endServicing s).halted = s.halted := rfl
@[simp] theorem endServicing_conBuf : (endServicing s).conBuf = s.conBuf := rfl
@[simp] theorem endServicing_strOffset : (endServicing s).strOffset = s.strOffset := rfl
@[simp] theorem endServicing_strAccum : (endServicing s).strAccum = s.strAccum := rfl
@[simp] theorem endServicing_out : (endServicing s).out = s.out := rfl
@[simp] theorem endServicing_kbdBuf : (endServicing s).kbdBuf = s.kbdBuf := rfl
@[simp] theorem endServicing_diag : (endServicing s).diag = s.diag := rfl

end

/-! ## `fetchByte` -/

section
variable (b : Byte) (s : State)

@[simp] theorem fetchByte_a : (fetchByte b s).a = s.a := rfl
@[simp] theorem fetchByte_x : (fetchByte b s).x = s.x := rfl
@[simp] theorem fetchByte_y : (fetchByte b s).y = s.y := rfl
@[simp] theorem fetchByte_pc : (fetchByte b s).pc = s.pc + 1#16 := rfl
@[simp] theorem fetchByte_ir : (fetchByte b s).ir = b := rfl
@[simp] theorem fetchByte_zFlag : (fetchByte b s).zFlag = s.zFlag := rfl
@[simp] theorem fetchByte_step : (fetchByte b s).step = .decode1 := rfl
@[simp] theorem fetchByte_mode : (fetchByte b s).mode = s.mode := rfl
@[simp] theorem fetchByte_tempStore : (fetchByte b s).tempStore = s.tempStore := rfl
@[simp] theorem fetchByte_cells : (fetchByte b s).cells = s.cells := rfl
@[simp] theorem fetchByte_mar : (fetchByte b s).mar = s.pc := rfl
@[simp] theorem fetchByte_mdr : (fetchByte b s).mdr = b := rfl
@[simp] theorem fetchByte_hob : (fetchByte b s).hob = s.hob := rfl
@[simp] theorem fetchByte_lob : (fetchByte b s).lob = s.lob := rfl
@[simp] theorem fetchByte_queue : (fetchByte b s).queue = s.queue := rfl
@[simp] theorem fetchByte_sources : (fetchByte b s).sources = s.sources := rfl
@[simp] theorem fetchByte_halted : (fetchByte b s).halted = s.halted := rfl
@[simp] theorem fetchByte_conBuf : (fetchByte b s).conBuf = s.conBuf := rfl
@[simp] theorem fetchByte_strOffset : (fetchByte b s).strOffset = s.strOffset := rfl
@[simp] theorem fetchByte_strAccum : (fetchByte b s).strAccum = s.strAccum := rfl
@[simp] theorem fetchByte_out : (fetchByte b s).out = s.out := rfl
@[simp] theorem fetchByte_kbdBuf : (fetchByte b s).kbdBuf = s.kbdBuf := rfl
@[simp] theorem fetchByte_diag : (fetchByte b s).diag = s.diag := rfl

end

/-! ## `decode1ConstantByte` -/

section
variable (b : Byte) (s : State)

@[simp] theorem decode1ConstantByte_a : (decode1ConstantByte b s).a = s.a := rfl
@[simp] theorem decode1ConstantByte_x : (decode1ConstantByte b s).x = s.x := rfl
@[simp] theorem decode1ConstantByte_y : (decode1ConstantByte b s).y = s.y := rfl
@[simp] theorem decode1ConstantByte_pc : (decode1ConstantByte b s).pc = s.pc + 1#16 := rfl
@[simp] theorem decode1ConstantByte_ir : (decode1ConstantByte b s).ir = s.ir := rfl
@[simp] theorem decode1ConstantByte_zFlag : (decode1ConstantByte b s).zFlag = s.zFlag := rfl
@[simp] theorem decode1ConstantByte_step : (decode1ConstantByte b s).step = .execute1 := rfl
@[simp] theorem decode1ConstantByte_mode : (decode1ConstantByte b s).mode = s.mode := rfl
@[simp] theorem decode1ConstantByte_tempStore : (decode1ConstantByte b s).tempStore = b := rfl
@[simp] theorem decode1ConstantByte_cells : (decode1ConstantByte b s).cells = s.cells := rfl
@[simp] theorem decode1ConstantByte_mar : (decode1ConstantByte b s).mar = s.pc := rfl
@[simp] theorem decode1ConstantByte_mdr : (decode1ConstantByte b s).mdr = b := rfl
@[simp] theorem decode1ConstantByte_hob : (decode1ConstantByte b s).hob = s.hob := rfl
@[simp] theorem decode1ConstantByte_lob : (decode1ConstantByte b s).lob = s.lob := rfl
@[simp] theorem decode1ConstantByte_queue : (decode1ConstantByte b s).queue = s.queue := rfl
@[simp] theorem decode1ConstantByte_sources : (decode1ConstantByte b s).sources = s.sources := rfl
@[simp] theorem decode1ConstantByte_halted : (decode1ConstantByte b s).halted = s.halted := rfl
@[simp] theorem decode1ConstantByte_conBuf : (decode1ConstantByte b s).conBuf = s.conBuf := rfl
@[simp] theorem decode1ConstantByte_strOffset : (decode1ConstantByte b s).strOffset = s.strOffset := rfl
@[simp] theorem decode1ConstantByte_strAccum : (decode1ConstantByte b s).strAccum = s.strAccum := rfl
@[simp] theorem decode1ConstantByte_out : (decode1ConstantByte b s).out = s.out := rfl
@[simp] theorem decode1ConstantByte_kbdBuf : (decode1ConstantByte b s).kbdBuf = s.kbdBuf := rfl
@[simp] theorem decode1ConstantByte_diag : (decode1ConstantByte b s).diag = s.diag := rfl

end

/-! ## `decode1AddressByte` -/

section
variable (b : Byte) (s : State)

@[simp] theorem decode1AddressByte_a : (decode1AddressByte b s).a = s.a := rfl
@[simp] theorem decode1AddressByte_x : (decode1AddressByte b s).x = s.x := rfl
@[simp] theorem decode1AddressByte_y : (decode1AddressByte b s).y = s.y := rfl
@[simp] theorem decode1AddressByte_pc : (decode1AddressByte b s).pc = s.pc + 1#16 := rfl
@[simp] theorem decode1AddressByte_ir : (decode1AddressByte b s).ir = s.ir := rfl
@[simp] theorem decode1AddressByte_zFlag : (decode1AddressByte b s).zFlag = s.zFlag := rfl
@[simp] theorem decode1AddressByte_step : (decode1AddressByte b s).step = .decode2 := rfl
@[simp] theorem decode1AddressByte_mode : (decode1AddressByte b s).mode = s.mode := rfl
@[simp] theorem decode1AddressByte_tempStore : (decode1AddressByte b s).tempStore = s.tempStore := rfl
@[simp] theorem decode1AddressByte_cells : (decode1AddressByte b s).cells = s.cells := rfl
@[simp] theorem decode1AddressByte_mar : (decode1AddressByte b s).mar = s.pc := rfl
@[simp] theorem decode1AddressByte_mdr : (decode1AddressByte b s).mdr = b := rfl
@[simp] theorem decode1AddressByte_hob : (decode1AddressByte b s).hob = s.hob := rfl
@[simp] theorem decode1AddressByte_lob : (decode1AddressByte b s).lob = some b := rfl
@[simp] theorem decode1AddressByte_queue : (decode1AddressByte b s).queue = s.queue := rfl
@[simp] theorem decode1AddressByte_sources : (decode1AddressByte b s).sources = s.sources := rfl
@[simp] theorem decode1AddressByte_halted : (decode1AddressByte b s).halted = s.halted := rfl
@[simp] theorem decode1AddressByte_conBuf : (decode1AddressByte b s).conBuf = s.conBuf := rfl
@[simp] theorem decode1AddressByte_strOffset : (decode1AddressByte b s).strOffset = s.strOffset := rfl
@[simp] theorem decode1AddressByte_strAccum : (decode1AddressByte b s).strAccum = s.strAccum := rfl
@[simp] theorem decode1AddressByte_out : (decode1AddressByte b s).out = s.out := rfl
@[simp] theorem decode1AddressByte_kbdBuf : (decode1AddressByte b s).kbdBuf = s.kbdBuf := rfl
@[simp] theorem decode1AddressByte_diag : (decode1AddressByte b s).diag = s.diag := rfl

end

/-! ## `decode2Byte` -/

section
variable (b : Byte) (s : State)

@[simp] theorem decode2Byte_a : (decode2Byte b s).a = s.a := rfl
@[simp] theorem decode2Byte_x : (decode2Byte b s).x = s.x := rfl
@[simp] theorem decode2Byte_y : (decode2Byte b s).y = s.y := rfl
@[simp] theorem decode2Byte_pc : (decode2Byte b s).pc = s.pc + 1#16 := rfl
@[simp] theorem decode2Byte_ir : (decode2Byte b s).ir = s.ir := rfl
@[simp] theorem decode2Byte_zFlag : (decode2Byte b s).zFlag = s.zFlag := rfl
@[simp] theorem decode2Byte_step : (decode2Byte b s).step = .execute1 := rfl
@[simp] theorem decode2Byte_mode : (decode2Byte b s).mode = s.mode := rfl
@[simp] theorem decode2Byte_tempStore : (decode2Byte b s).tempStore = s.tempStore := rfl
@[simp] theorem decode2Byte_cells : (decode2Byte b s).cells = s.cells := rfl
@[simp] theorem decode2Byte_mar : (decode2Byte b s).mar = s.pc := rfl
@[simp] theorem decode2Byte_mdr : (decode2Byte b s).mdr = b := rfl
@[simp] theorem decode2Byte_hob : (decode2Byte b s).hob = some b := rfl
@[simp] theorem decode2Byte_lob : (decode2Byte b s).lob = s.lob := rfl
@[simp] theorem decode2Byte_queue : (decode2Byte b s).queue = s.queue := rfl
@[simp] theorem decode2Byte_sources : (decode2Byte b s).sources = s.sources := rfl
@[simp] theorem decode2Byte_halted : (decode2Byte b s).halted = s.halted := rfl
@[simp] theorem decode2Byte_conBuf : (decode2Byte b s).conBuf = s.conBuf := rfl
@[simp] theorem decode2Byte_strOffset : (decode2Byte b s).strOffset = s.strOffset := rfl
@[simp] theorem decode2Byte_strAccum : (decode2Byte b s).strAccum = s.strAccum := rfl
@[simp] theorem decode2Byte_out : (decode2Byte b s).out = s.out := rfl
@[simp] theorem decode2Byte_kbdBuf : (decode2Byte b s).kbdBuf = s.kbdBuf := rfl
@[simp] theorem decode2Byte_diag : (decode2Byte b s).diag = s.diag := rfl

end

/-! ## `decode1None` -/

section
variable (s : State)

@[simp] theorem decode1None_a : (decode1None s).a = s.a := rfl
@[simp] theorem decode1None_x : (decode1None s).x = s.x := rfl
@[simp] theorem decode1None_y : (decode1None s).y = s.y := rfl
@[simp] theorem decode1None_pc : (decode1None s).pc = s.pc := rfl
@[simp] theorem decode1None_ir : (decode1None s).ir = s.ir := rfl
@[simp] theorem decode1None_zFlag : (decode1None s).zFlag = s.zFlag := rfl
@[simp] theorem decode1None_step : (decode1None s).step = .execute1 := rfl
@[simp] theorem decode1None_mode : (decode1None s).mode = s.mode := rfl
@[simp] theorem decode1None_tempStore : (decode1None s).tempStore = s.tempStore := rfl
@[simp] theorem decode1None_cells : (decode1None s).cells = s.cells := rfl
@[simp] theorem decode1None_mar : (decode1None s).mar = s.mar := rfl
@[simp] theorem decode1None_mdr : (decode1None s).mdr = s.mdr := rfl
@[simp] theorem decode1None_hob : (decode1None s).hob = s.hob := rfl
@[simp] theorem decode1None_lob : (decode1None s).lob = s.lob := rfl
@[simp] theorem decode1None_queue : (decode1None s).queue = s.queue := rfl
@[simp] theorem decode1None_sources : (decode1None s).sources = s.sources := rfl
@[simp] theorem decode1None_halted : (decode1None s).halted = s.halted := rfl
@[simp] theorem decode1None_conBuf : (decode1None s).conBuf = s.conBuf := rfl
@[simp] theorem decode1None_strOffset : (decode1None s).strOffset = s.strOffset := rfl
@[simp] theorem decode1None_strAccum : (decode1None s).strAccum = s.strAccum := rfl
@[simp] theorem decode1None_out : (decode1None s).out = s.out := rfl
@[simp] theorem decode1None_kbdBuf : (decode1None s).kbdBuf = s.kbdBuf := rfl
@[simp] theorem decode1None_diag : (decode1None s).diag = s.diag := rfl

end

end Sys2Proof.Machine
end

