-- ==== Sys2Proof/Laws/AddressUnit.lean ====
section
/-! SUPPORT. The address unit: everything a register-mediated access can do, and that composing undoes splitting. -/

namespace Sys2Proof.Machine

theorem composeWord_hi_lo (w : Word) : composeWord (hiByte w) (loByte w) = w := by
  unfold composeWord hiByte loByte
  ext i hi
  simp only [BitVec.getElem_append, BitVec.getElem_extractLsb']
  split
  · simp [BitVec.getLsbD_eq_getElem hi]
  · rw [show 8 + (i - 8) = i by omega, BitVec.getLsbD_eq_getElem hi]

theorem hiByte_composeWord (hi lo : Byte) : hiByte (composeWord hi lo) = hi := by
  unfold composeWord hiByte
  ext i h
  simp only [BitVec.getElem_extractLsb']
  rw [BitVec.getLsbD_append]
  simp [BitVec.getLsbD_eq_getElem h]

theorem loByte_composeWord (hi lo : Byte) : loByte (composeWord hi lo) = lo := by
  unfold composeWord loByte
  ext i h
  simp only [BitVec.getElem_extractLsb']
  rw [BitVec.getLsbD_append]
  simp [h]

theorem composeAddress_of_set {s : State} {hi lo : Byte} (hh : s.hob = some hi) (hl : s.lob = some lo) :
    composeAddress s = some (composeWord hi lo) := by
  simp [composeAddress, hh, hl]

theorem auAccess_unset (access : State → State) {s : State} (hh : s.hob = none) (hl : s.lob = none) :
    auAccess access s = .next (access s) := by
  simp [auAccess, hh, hl]

theorem auAccess_set (access : State → State) {s : State} {hi lo : Byte} (hh : s.hob = some hi)
    (hl : s.lob = some lo) :
    auAccess access s = .next (clearHalves (access (setMar (composeWord hi lo) s))) := by
  simp [auAccess, composeAddress, hh, hl]

/-- All a register-mediated access can do: one of its two arms, or the fault when exactly one half is set. -/
theorem auAccess_cases (access : State → State) (s : State) :
    (s.hob = none ∧ s.lob = none ∧ auAccess access s = .next (access s)) ∨
    (∃ hi lo, s.hob = some hi ∧ s.lob = some lo ∧
      auAccess access s = .next (clearHalves (access (setMar (composeWord hi lo) s)))) ∨
    (s.hob.isSome ≠ s.lob.isSome ∧ auAccess access s = .fault .composeUnset) := by
  rcases hh : s.hob with _ | hi <;> rcases hl : s.lob with _ | lo
  · exact .inl ⟨rfl, rfl, auAccess_unset access hh hl⟩
  · exact .inr (.inr ⟨by simp, by simp [auAccess, composeAddress, hh, hl]⟩)
  · exact .inr (.inr ⟨by simp, by simp [auAccess, composeAddress, hh, hl]⟩)
  · exact .inr (.inl ⟨hi, lo, rfl, rfl, auAccess_set access hh hl⟩)

@[simp] theorem andThen_next (s : State) (k : State → Result) : andThen (.next s) k = k s := rfl

@[simp] theorem andThen_fault (f : Fault) (k : State → Result) : andThen (.fault f) k = .fault f := rfl

@[simp] theorem andThen_refused (f : Refusal) (k : State → Result) : andThen (.refused f) k = .refused f := rfl

/-- If a sequence answers a next state, its first part did. -/
theorem andThen_eq_next {r : Result} {k : State → Result} {t : State} (h : andThen r k = .next t) :
    ∃ s, r = .next s ∧ k s = .next t := by
  cases r with
  | next s => exact ⟨s, rfl, h⟩
  | fault f => cases h
  | refused f => cases h

theorem andThen_assoc (r : Result) (k l : State → Result) :
    andThen (andThen r k) l = andThen r fun s => andThen (k s) l := by
  cases r <;> rfl

end Sys2Proof.Machine
end

