-- ==== Sys2Proof/Laws/Interrupts.lean ====
section
/-! SUPPORT. The interrupt controller and the interrupt-check phase: the sort, everything one service and one poll can do, and
what the drain loop leaves alone. -/

namespace Sys2Proof.Machine

/-! ## The sort -/

theorem insertByPriority_perm (ev : Event) (q : List Event) : (insertByPriority ev q).Perm (ev :: q) := by
  induction q with
  | nil => exact .refl _
  | cons e es ih =>
    rw [insertByPriority]
    split
    · exact .refl _
    · exact (ih.cons e).trans (.swap ev e es)

/-- Inserting behind everything of no greater priority value is appending (R173). -/
theorem insertByPriority_append {ev : Event} {q : List Event} (h : ∀ e ∈ q, e.priority ≤ ev.priority) :
    insertByPriority ev q = q ++ [ev] := by
  induction q with
  | nil => rfl
  | cons e es ih =>
    have he := h e List.mem_cons_self
    rw [insertByPriority, if_neg (by omega), ih fun x hx => h x (List.mem_cons_of_mem _ hx)]
    rfl

theorem foldl_insert_perm (q acc : List Event) :
    (q.foldl (fun sorted ev => insertByPriority ev sorted) acc).Perm (acc ++ q) := by
  induction q generalizing acc with
  | nil => simp
  | cons e es ih =>
    refine (ih (insertByPriority e acc)).trans (((insertByPriority_perm e acc).append_right es).trans ?_)
    exact (List.perm_middle (a := e) (l₁ := acc) (l₂ := es)).symm

theorem sortByPriority_perm (q : List Event) : (sortByPriority q).Perm q := by
  simpa [sortByPriority] using foldl_insert_perm q []

theorem foldl_insert_of_sorted (q acc : List Event)
    (h : (acc ++ q).Pairwise fun e f => e.priority ≤ f.priority) :
    q.foldl (fun sorted ev => insertByPriority ev sorted) acc = acc ++ q := by
  induction q generalizing acc with
  | nil => simp
  | cons e es ih =>
    rw [List.foldl_cons, insertByPriority_append, ih (acc ++ [e]) (by simpa using h), List.append_assoc]
    · rfl
    · intro x hx
      exact (List.pairwise_append.mp h).2.2 x hx e List.mem_cons_self

/-- Sorting a sorted queue changes nothing (R174: "The re-sort is a no-op"). -/
theorem sortByPriority_of_sorted {q : List Event} (h : q.Pairwise fun e f => e.priority ≤ f.priority) :
    sortByPriority q = q :=
  foldl_insert_of_sorted q [] h

theorem sortByPriority_append_singleton (q : List Event) (ev : Event) :
    sortByPriority (q ++ [ev]) = insertByPriority ev (sortByPriority q) := by
  simp [sortByPriority, List.foldl_append]

theorem insertByPriority_sorted {ev : Event} {q : List Event}
    (h : q.Pairwise fun e f => e.priority ≤ f.priority) :
    (insertByPriority ev q).Pairwise fun e f => e.priority ≤ f.priority := by
  induction q with
  | nil => simp [insertByPriority]
  | cons e es ih =>
    obtain ⟨h1, h2⟩ := List.pairwise_cons.mp h
    rw [insertByPriority]
    split
    · refine List.pairwise_cons.mpr ⟨?_, h⟩
      rintro x (_ | ⟨_, hx⟩)
      · omega
      · have := h1 x hx
        omega
    · refine List.pairwise_cons.mpr ⟨?_, ih h2⟩
      intro x hx
      rcases List.mem_cons.mp ((insertByPriority_perm ev es).mem_iff.mp hx) with rfl | hx
      · omega
      · exact h1 x hx

theorem foldl_insert_sorted (q acc : List Event) (h : acc.Pairwise fun e f => e.priority ≤ f.priority) :
    (q.foldl (fun sorted ev => insertByPriority ev sorted) acc).Pairwise fun e f => e.priority ≤ f.priority := by
  induction q generalizing acc with
  | nil => exact h
  | cons e es ih => exact ih _ (insertByPriority_sorted h)

/-- What the sort answers is sorted. -/
theorem sortByPriority_sorted (q : List Event) :
    (sortByPriority q).Pairwise fun e f => e.priority ≤ f.priority :=
  foldl_insert_sorted q [] .nil

@[simp] theorem sortByPriority_nil : sortByPriority [] = [] := rfl

theorem sortByPriority_eq_nil {q : List Event} : sortByPriority q = [] ↔ q = [] := by
  constructor
  · intro h
    have := (sortByPriority_perm q).length_eq
    rw [h] at this
    exact List.length_eq_zero_iff.mp this.symm
  · rintro rfl
    rfl

theorem sortByPriority_length (q : List Event) : (sortByPriority q).length = q.length :=
  (sortByPriority_perm q).length_eq

/-! ## One poll -/

/-- All a key's action can do to the state (R192). -/
theorem keyHandler_cases (action : KeyAction) (s : State) :
    keyHandler action s = s ∨ keyHandler action s = { s with diag := !s.diag } ∨
    keyHandler action s = consoleAccept (.str Config.greeting) s := by
  cases action
  · exact .inr (.inl rfl)
  · exact .inr (.inr rfl)
  · exact .inl rfl
  · exact .inl rfl

/-- All a service can do: it changes only `mode`, the device FIFOs, `OUT`, `diag` and, by a greeting, `queue`
(R177, R178, R179, R192, R199). -/
theorem serviceEvent_cases (ev : Event) (s : State) :
    (serviceEvent ev s = { s with mode := .interruptServicing }) ∨
    (∃ u rest, ev.name = .console ∧ s.conBuf = u :: rest ∧ serviceEvent ev s =
      { s with mode := .interruptServicing, conBuf := rest, out := s.out ++ [u] }) ∨
    (∃ code rest, ev.name = .keyboard ∧ s.kbdBuf = code :: rest ∧ serviceEvent ev s =
      keyHandler (Config.keyAction code) { s with mode := .interruptServicing, kbdBuf := rest }) := by
  unfold serviceEvent
  rcases hn : ev.name with _ | _ | name
  · rcases hc : s.conBuf with _ | ⟨u, rest⟩
    · left
      simp [serviceConsole]
    · right; left
      exact ⟨u, rest, rfl, rfl, by simp [serviceConsole]⟩
  · rcases hk : s.kbdBuf with _ | ⟨code, rest⟩
    · left
      simp [serviceKeyboard]
    · right; right
      exact ⟨code, rest, rfl, rfl, by simp [serviceKeyboard]⟩
  · exact .inl rfl

/-- All a poll can do (R177): the empty poll, or the service of the front event of the sorted queue. -/
theorem interruptCheck_cases (s : State) :
    (s.queue = [] ∧ interruptCheck s = { s with mode := .normal, step := .fetch }) ∨
    (∃ ev rest, sortByPriority s.queue = ev :: rest ∧
      interruptCheck s = serviceEvent ev { s with queue := rest }) := by
  rcases hq : sortByPriority s.queue with _ | ⟨ev, rest⟩
  · have hnil := sortByPriority_eq_nil.mp hq
    have h : interruptCheck s = endServicing { s with queue := [] } := by simp [interruptCheck, nextEvent, hq]
    refine .inl ⟨hnil, h.trans ?_⟩
    cases s
    cases hnil
    rfl
  · refine .inr ⟨ev, rest, rfl, ?_⟩
    simp [interruptCheck, nextEvent, hq]

/-- The fields a poll can change (R177): every other field is as before. -/
theorem interruptCheck_frame (s : State) :
    ∃ q m p c o k d, interruptCheck s =
      { s with queue := q, mode := m, step := p, conBuf := c, out := o, kbdBuf := k, diag := d } := by
  rcases interruptCheck_cases s with ⟨_, h⟩ | ⟨ev, rest, _, h⟩
  · exact ⟨_, _, _, _, _, _, _, h⟩
  · rw [h]
    rcases serviceEvent_cases ev { s with queue := rest } with h | ⟨u, r, _, _, h⟩ | ⟨code, r, _, _, h⟩
    · exact ⟨_, _, _, _, _, _, _, h⟩
    · exact ⟨_, _, _, _, _, _, _, h⟩
    · rw [h]
      rcases keyHandler_cases (Config.keyAction code)
        { s with queue := rest, mode := .interruptServicing, kbdBuf := r } with h | h | h <;>
        exact ⟨_, _, _, _, _, _, _, h⟩

/-- A poll that finds an event leaves `step` alone (R177). -/
theorem interruptCheck_step_of_ne {s : State} (h : s.queue ≠ []) : (interruptCheck s).step = s.step := by
  rcases interruptCheck_cases s with ⟨hq, _⟩ | ⟨ev, rest, _, he⟩
  · exact absurd hq h
  · rw [he]
    rcases serviceEvent_cases ev { s with queue := rest } with h | ⟨u, r, _, _, h⟩ | ⟨code, r, _, _, h⟩
    · rw [h]
    · rw [h]
    · rw [h]
      rcases keyHandler_cases (Config.keyAction code)
        { s with queue := rest, mode := .interruptServicing, kbdBuf := r } with h | h | h
      · rw [h]
      · rw [h]
      · rw [h]
        rfl

/-! ## The drain loop -/

/-- What every poll keeps, the drain loop keeps. -/
theorem drainFor_keeps {P : State → Prop} (h : ∀ s, P s → P (interruptCheck s)) (fuel : Nat) {s : State} (hs : P s) :
    P (drainFor fuel s) := by
  induction fuel generalizing s with
  | zero => exact h s hs
  | succ n ih =>
    rw [drainFor]
    split
    · exact h s hs
    · exact ih (h s hs)

theorem drain_keeps {P : State → Prop} (h : ∀ s, P s → P (interruptCheck s)) {s : State} (hs : P s) : P (drain s) :=
  drainFor_keeps h _ hs

@[simp] theorem interruptCheck_a (s : State) : (interruptCheck s).a = s.a := by
  obtain ⟨_, _, _, _, _, _, _, h⟩ := interruptCheck_frame s
  rw [h]

@[simp] theorem drain_a (s : State) : (drain s).a = s.a :=
  drain_keeps (P := fun t => t.a = s.a) (fun t h => (interruptCheck_a t).trans h) rfl

@[simp] theorem interruptCheck_x (s : State) : (interruptCheck s).x = s.x := by
  obtain ⟨_, _, _, _, _, _, _, h⟩ := interruptCheck_frame s
  rw [h]

@[simp] theorem drain_x (s : State) : (drain s).x = s.x :=
  drain_keeps (P := fun t => t.x = s.x) (fun t h => (interruptCheck_x t).trans h) rfl

@[simp] theorem interruptCheck_y (s : State) : (interruptCheck s).y = s.y := by
  obtain ⟨_, _, _, _, _, _, _, h⟩ := interruptCheck_frame s
  rw [h]

@[simp] theorem drain_y (s : State) : (drain s).y = s.y :=
  drain_keeps (P := fun t => t.y = s.y) (fun t h => (interruptCheck_y t).trans h) rfl

@[simp] theorem interruptCheck_pc (s : State) : (interruptCheck s).pc = s.pc := by
  obtain ⟨_, _, _, _, _, _, _, h⟩ := interruptCheck_frame s
  rw [h]

@[simp] theorem drain_pc (s : State) : (drain s).pc = s.pc :=
  drain_keeps (P := fun t => t.pc = s.pc) (fun t h => (interruptCheck_pc t).trans h) rfl

@[simp] theorem interruptCheck_ir (s : State) : (interruptCheck s).ir = s.ir := by
  obtain ⟨_, _, _, _, _, _, _, h⟩ := interruptCheck_frame s
  rw [h]

@[simp] theorem drain_ir (s : State) : (drain s).ir = s.ir :=
  drain_keeps (P := fun t => t.ir = s.ir) (fun t h => (interruptCheck_ir t).trans h) rfl

@[simp] theorem interruptCheck_zFlag (s : State) : (interruptCheck s).zFlag = s.zFlag := by
  obtain ⟨_, _, _, _, _, _, _, h⟩ := interruptCheck_frame s
  rw [h]

@[simp] theorem drain_zFlag (s : State) : (drain s).zFlag = s.zFlag :=
  drain_keeps (P := fun t => t.zFlag = s.zFlag) (fun t h => (interruptCheck_zFlag t).trans h) rfl

@[simp] theorem interruptCheck_tempStore (s : State) : (interruptCheck s).tempStore = s.tempStore := by
  obtain ⟨_, _, _, _, _, _, _, h⟩ := interruptCheck_frame s
  rw [h]

@[simp] theorem drain_tempStore (s : State) : (drain s).tempStore = s.tempStore :=
  drain_keeps (P := fun t => t.tempStore = s.tempStore) (fun t h => (interruptCheck_tempStore t).trans h) rfl

@[simp] theorem interruptCheck_cells (s : State) : (interruptCheck s).cells = s.cells := by
  obtain ⟨_, _, _, _, _, _, _, h⟩ := interruptCheck_frame s
  rw [h]

@[simp] theorem drain_cells (s : State) : (drain s).cells = s.cells :=
  drain_keeps (P := fun t => t.cells = s.cells) (fun t h => (interruptCheck_cells t).trans h) rfl

@[simp] theorem interruptCheck_mar (s : State) : (interruptCheck s).mar = s.mar := by
  obtain ⟨_, _, _, _, _, _, _, h⟩ := interruptCheck_frame s
  rw [h]

@[simp] theorem drain_mar (s : State) : (drain s).mar = s.mar :=
  drain_keeps (P := fun t => t.mar = s.mar) (fun t h => (interruptCheck_mar t).trans h) rfl

@[simp] theorem interruptCheck_mdr (s : State) : (interruptCheck s).mdr = s.mdr := by
  obtain ⟨_, _, _, _, _, _, _, h⟩ := interruptCheck_frame s
  rw [h]

@[simp] theorem drain_mdr (s : State) : (drain s).mdr = s.mdr :=
  drain_keeps (P := fun t => t.mdr = s.mdr) (fun t h => (interruptCheck_mdr t).trans h) rfl

@[simp] theorem interruptCheck_hob (s : State) : (interruptCheck s).hob = s.hob := by
  obtain ⟨_, _, _, _, _, _, _, h⟩ := interruptCheck_frame s
  rw [h]

@[simp] theorem drain_hob (s : State) : (drain s).hob = s.hob :=
  drain_keeps (P := fun t => t.hob = s.hob) (fun t h => (interruptCheck_hob t).trans h) rfl

@[simp] theorem interruptCheck_lob (s : State) : (interruptCheck s).lob = s.lob := by
  obtain ⟨_, _, _, _, _, _, _, h⟩ := interruptCheck_frame s
  rw [h]

@[simp] theorem drain_lob (s : State) : (drain s).lob = s.lob :=
  drain_keeps (P := fun t => t.lob = s.lob) (fun t h => (interruptCheck_lob t).trans h) rfl

@[simp] theorem interruptCheck_sources (s : State) : (interruptCheck s).sources = s.sources := by
  obtain ⟨_, _, _, _, _, _, _, h⟩ := interruptCheck_frame s
  rw [h]

@[simp] theorem drain_sources (s : State) : (drain s).sources = s.sources :=
  drain_keeps (P := fun t => t.sources = s.sources) (fun t h => (interruptCheck_sources t).trans h) rfl

@[simp] theorem interruptCheck_halted (s : State) : (interruptCheck s).halted = s.halted := by
  obtain ⟨_, _, _, _, _, _, _, h⟩ := interruptCheck_frame s
  rw [h]

@[simp] theorem drain_halted (s : State) : (drain s).halted = s.halted :=
  drain_keeps (P := fun t => t.halted = s.halted) (fun t h => (interruptCheck_halted t).trans h) rfl

@[simp] theorem interruptCheck_strOffset (s : State) : (interruptCheck s).strOffset = s.strOffset := by
  obtain ⟨_, _, _, _, _, _, _, h⟩ := interruptCheck_frame s
  rw [h]

@[simp] theorem drain_strOffset (s : State) : (drain s).strOffset = s.strOffset :=
  drain_keeps (P := fun t => t.strOffset = s.strOffset) (fun t h => (interruptCheck_strOffset t).trans h) rfl

@[simp] theorem interruptCheck_strAccum (s : State) : (interruptCheck s).strAccum = s.strAccum := by
  obtain ⟨_, _, _, _, _, _, _, h⟩ := interruptCheck_frame s
  rw [h]

@[simp] theorem drain_strAccum (s : State) : (drain s).strAccum = s.strAccum :=
  drain_keeps (P := fun t => t.strAccum = s.strAccum) (fun t h => (interruptCheck_strAccum t).trans h) rfl

end Sys2Proof.Machine
end

