-- ==== Sys2Proof/Laws/PerInstr.lean ====
section
/-! SUPPORT. Per-instruction facts about the encoding, one lemma per constructor of `Instr`. -/

namespace Sys2Proof.Laws.EncodingShape

/-- The bytes of an instruction that is well formed for `X = x` begin with the opcode of its operation, and are as many
as the decode class of that opcode says (spec/30_encoding.md R70, R71, R80). -/
def Statement (i : Instr) : Prop :=
  ∀ x : Byte, i.wellFormed x = true →
    (encode i).head? = some (opcode i.operation) ∧ (encode i).length = classLength (classify (opcode i.operation) x)

theorem ldaImm (imm : Byte) : Statement (.ldaImm imm) := fun _ _ => ⟨rfl, rfl⟩

theorem ldaAbs (addr : Word) : Statement (.ldaAbs addr) := fun _ _ => ⟨rfl, rfl⟩

theorem sta (addr : Word) : Statement (.sta addr) := fun _ _ => ⟨rfl, rfl⟩

theorem txa : Statement .txa := fun _ _ => ⟨rfl, rfl⟩

theorem tya : Statement .tya := fun _ _ => ⟨rfl, rfl⟩

theorem adc (addr : Word) : Statement (.adc addr) := fun _ _ => ⟨rfl, rfl⟩

theorem ldxImm (imm : Byte) : Statement (.ldxImm imm) := fun _ _ => ⟨rfl, rfl⟩

theorem ldxAbs (addr : Word) : Statement (.ldxAbs addr) := fun _ _ => ⟨rfl, rfl⟩

theorem tax : Statement .tax := fun _ _ => ⟨rfl, rfl⟩

theorem ldyImm (imm : Byte) : Statement (.ldyImm imm) := fun _ _ => ⟨rfl, rfl⟩

theorem ldyAbs (addr : Word) : Statement (.ldyAbs addr) := fun _ _ => ⟨rfl, rfl⟩

theorem tay : Statement .tay := fun _ _ => ⟨rfl, rfl⟩

theorem nop : Statement .nop := fun _ _ => ⟨rfl, rfl⟩

theorem brk : Statement .brk := fun _ _ => ⟨rfl, rfl⟩

theorem cpx (addr : Word) : Statement (.cpx addr) := fun _ _ => ⟨rfl, rfl⟩

theorem bne (rel : Byte) : Statement (.bne rel) := fun _ _ => ⟨rfl, rfl⟩

theorem inc (addr : Word) : Statement (.inc addr) := fun _ _ => ⟨rfl, rfl⟩

theorem sys : Statement .sys := fun x h => ⟨rfl, by
    have hx : x ≠ 3#8 := by simpa [Instr.wellFormed] using h
    simp [encode, Instr.operandBytes, Instr.operation, classify, operationOf, allOperations, opcode, operationClass,
      classLength, hx]⟩

theorem sysAddr (addr : Word) : Statement (.sysAddr addr) := fun x h => ⟨rfl, by
    have hx : x = 3#8 := by simpa [Instr.wellFormed] using h
    subst hx
    rfl⟩

end Sys2Proof.Laws.EncodingShape
end

