-- ==== Sys2Proof/Laws/Phases.lean ====
section
/-! SUPPORT. The common phases of an instruction: the state in which its execute-1 begins, and what a tick is in each phase. -/

namespace Sys2Proof.Machine

theorem pc_add_two (w : Word) : w + 1#16 + 1#16 = w + 2#16 := by
  rw [BitVec.add_assoc]
  rfl

theorem pc_add_three (w : Word) : w + 2#16 + 1#16 = w + 3#16 := by
  rw [BitVec.add_assoc]
  rfl

theorem operationOf_opcode (op : Operation) : operationOf (opcode op) = some op := by
  cases op <;> rfl

theorem opcode_of_operationOf {b : Byte} {op : Operation} (h : operationOf b = some op) : b = opcode op := by
  have := List.find?_some h
  simp only [beq_iff_eq] at this
  exact this.symm

theorem decodedNone_eq (op : Operation) (s : State) :
    decodedNone op s =
      { s with ir := opcode op, mar := s.pc, mdr := opcode op, pc := s.pc + 1#16, step := .execute1 } := rfl

theorem decodedConstant_eq (op : Operation) (imm : Byte) (s : State) :
    decodedConstant op imm s =
      { s with
        ir := opcode op, mar := s.pc + 1#16, mdr := imm, pc := s.pc + 2#16, tempStore := imm, step := .execute1 } := by
  simp [decodedConstant, decode1ConstantByte, fetchByte, pc_add_two]

theorem decodedAddress_eq (op : Operation) (addr : Word) (s : State) :
    decodedAddress op addr s =
      { s with
        ir := opcode op, mar := s.pc + 2#16, mdr := hiByte addr, pc := s.pc + 3#16, hob := some (hiByte addr),
        lob := some (loByte addr), step := .execute1 } := by
  simp [decodedAddress, decode2Byte, decode1AddressByte, fetchByte, pc_add_two, pc_add_three]

/-- A register-mediated access by a decoded instruction goes to its address operand, and clears the halves (R73). -/
theorem auAccess_decodedAddress (access : State → State) (op : Operation) (addr : Word) (s : State) :
    auAccess access (decodedAddress op addr s) =
      .next (clearHalves (access (setMar addr (decodedAddress op addr s)))) := by
  have h := auAccess_set access (s := decodedAddress op addr s) (hi := hiByte addr) (lo := loByte addr) rfl rfl
  rwa [composeWord_hi_lo] at h

/-- The read of a decoded instruction's memory operand (R48, R73). -/
theorem auRead_decodedAddress (op : Operation) (addr : Word) (s : State) :
    auRead (decodedAddress op addr s) =
      .next { s with
        ir := opcode op, mar := addr, mdr := s.cells.read addr.toNat, pc := s.pc + 3#16, hob := none, lob := none,
        step := .execute1 } := by
  rw [auRead, auAccess_decodedAddress, decodedAddress_eq]
  simp [memCellRead, setMar, clearHalves, State.cell]

theorem tick_of_running {s : State} (h : s.halted = false) : tick s = cpuPulse s := by
  simp [tick, h, interruptControllerPulse, addressUnitPulse, memoryPulse]

theorem tick_of_halted {s : State} (h : s.halted = true) : tick s = .next s := by
  simp [tick, h]

theorem ticks_succ (n : Nat) (s : State) : ticks (n + 1) s = andThen (tick s) (ticks n) := rfl

/-- Ticks in sequence. -/
theorem ticks_add (m n : Nat) (s : State) : ticks (m + n) s = andThen (ticks m s) (ticks n) := by
  induction m generalizing s with
  | zero => rw [Nat.zero_add]; rfl
  | succ m ih =>
    rw [Nat.add_right_comm, ticks_succ, ticks_succ, andThen_assoc]
    congr 1
    funext t
    exact ih t

end Sys2Proof.Machine
end

