-- ==== Sys2Proof/Tests/Slice0.lean ====
section
/-! SUPPORT. Tests of the model on small states. Expected results are the spec's: the examples of its rules and the vectors
of spec/95_test_vectors.md, whose numbers (S1, L1, A1, ...) the comments give. The last part shows, for every statement
with hypotheses, a state and operands that meet them. -/

namespace Sys2Proof.Tests

open Sys2Proof Sys2Proof.Machine

/-! ## Helpers -/

/-- `s` with the bytes `bs` at `addr`. -/
def withBytes (addr : Word) (bs : List Byte) (s : State) : State := { s with cells := placeBytes bs addr s.cells }

/-- A boundary at `pc` with the instruction bytes `bs` there, in a machine otherwise as after reset. -/
def program (pc : Word) (bs : List Byte) : State := { withBytes pc bs State.reset with pc := pc }

/-- A machine otherwise as after reset, in phase `p` of the opcode `ir`. -/
def phaseState (p : Phase) (ir : Byte) : State := { State.reset with step := p, ir := ir }

/-- `r` is a next state with the property `p`. -/
def answers (r : Result) (p : State → Bool) : Bool :=
  match r with
  | .next s => p s
  | .fault _ => false
  | .refused _ => false

/-- `r` is a next state. -/
def goesOn (r : Result) : Bool := answers r fun _ => true

/-- The very next step after placing a table word in the reset state goes on and leaves `ir` in `IR`. -/
def runsWord (nbits w : Nat) (ir : Byte) : Bool :=
  answers (step (State.reset.withFetchWord nbits w)) fun s => s.ir == ir

/-- The Console event of a test. -/
def con (n : Nat) : Event := { irq := n, priority := 1, name := .console }

/-- The Keyboard event of a test. -/
def kbd (n : Nat) : Event := { irq := n, priority := 4, name := .keyboard }

/-! ## Well-formedness: one ill-formed term for each check -/

theorem test_sys_without_operand_ill_formed_at_x3 : Instr.sys.wellFormed 3#8 = false := by decide

theorem test_sys_with_operand_ill_formed_at_x2 : (Instr.sysAddr 0x0010#16).wellFormed 2#8 = false := by decide

theorem test_load_start_out_of_range : loadAddressesFit [] 65536 = false := by decide

/-- M8. -/
theorem test_load_runs_off_the_end : loadAddressesFit [0xA9, 0x01] 0xFFFF = false := by decide

theorem test_load_value_out_of_range : loadValuesFit [0x00, 0x100] = false := by decide

/-! ## Decoding: a word of each constructor, written out from the spec's encoding of it -/

/-- R110, R115, R118, R140: format C. -/
theorem test_decode_format_c :
    decode 0#8 [0xA9#8, 0x7F#8] = .ok (.ldaImm 0x7F#8, []) ∧ decode 0#8 [0xA2#8, 0x02#8] = .ok (.ldxImm 0x02#8, []) ∧
    decode 0#8 [0xA0#8, 0x06#8] = .ok (.ldyImm 0x06#8, []) ∧ decode 0#8 [0xD0#8, 0x03#8] = .ok (.bne 0x03#8, []) := by
  decide

/-- R111, R116, R119, R112: format A, low byte first. -/
theorem test_decode_format_a_loads_and_store :
    decode 0#8 [0xAD#8, 0x34#8, 0x12#8] = .ok (.ldaAbs 0x1234#16, []) ∧
    decode 0#8 [0xAE#8, 0x10#8, 0x00#8] = .ok (.ldxAbs 0x0010#16, []) ∧
    decode 0#8 [0xAC#8, 0xFF#8, 0xFE#8] = .ok (.ldyAbs 0xFEFF#16, []) ∧
    decode 0#8 [0x8D#8, 0x00#8, 0x02#8] = .ok (.sta 0x0200#16, []) := by decide

/-- R130, R131, R132. -/
theorem test_decode_format_a_arithmetic :
    decode 0#8 [0x6D#8, 0x00#8, 0x03#8] = .ok (.adc 0x0300#16, []) ∧
    decode 0#8 [0xEC#8, 0x40#8, 0x00#8] = .ok (.cpx 0x0040#16, []) ∧
    decode 0#8 [0xEE#8, 0x00#8, 0x02#8] = .ok (.inc 0x0200#16, []) := by decide

/-- R113, R114, R117, R120, R141, R142: format N. -/
theorem test_decode_format_n :
    decode 3#8 [0x8A#8, 0xEA#8] = .ok (.txa, [0xEA#8]) ∧ decode 3#8 [0x98#8] = .ok (.tya, []) ∧
    decode 3#8 [0xAA#8] = .ok (.tax, []) ∧ decode 3#8 [0xA8#8] = .ok (.tay, []) ∧
    decode 3#8 [0xEA#8] = .ok (.nop, []) ∧ decode 3#8 [0x00#8] = .ok (.brk, []) := by decide

/-- R150; Y7, Y9: the same three bytes, with `X = 3` and with `X = 4`. -/
theorem test_decode_sys_by_x :
    decode 3#8 [0xFF#8, 0x00#8, 0x03#8] = .ok (.sysAddr 0x0300#16, []) ∧
    decode 4#8 [0xFF#8, 0x00#8, 0x03#8] = .ok (.sys, [0x00#8, 0x03#8]) := by decide

/-- R78, and lists too short to hold the instruction. -/
theorem test_decode_rejects :
    decode 0#8 [0x02#8] = .error (.invalidOpcode 0x02#8) ∧ decode 0#8 [0xAD#8, 0x34#8] = .error .truncated ∧
    decode 0#8 [0xA9#8] = .error .truncated ∧ decode 0#8 [] = .error .truncated := by decide

/-- The rows of spec/opcode_table.json of one and of two bytes. -/
theorem test_table_words_short :
    decodeTableWord 16 0x00A9 = some (.ldaImm 0x00#8) ∧ decodeTableWord 16 0x7FA9 = some (.ldaImm 0x7F#8) ∧
    decodeTableWord 16 0x00A2 = some (.ldxImm 0x00#8) ∧ decodeTableWord 16 0x00A0 = some (.ldyImm 0x00#8) ∧
    decodeTableWord 16 0x00D0 = some (.bne 0x00#8) ∧ decodeTableWord 8 0x8A = some .txa ∧
    decodeTableWord 8 0x98 = some .tya ∧ decodeTableWord 8 0xAA = some .tax ∧ decodeTableWord 8 0xA8 = some .tay ∧
    decodeTableWord 8 0xEA = some .nop ∧ decodeTableWord 8 0x00 = some .brk ∧ decodeTableWord 8 0xFF = some .sys := by
  decide

/-- The rows of three bytes. -/
theorem test_table_words_long :
    decodeTableWord 24 0x1234AD = some (.ldaAbs 0x1234#16) ∧ decodeTableWord 24 0x00008D = some (.sta 0x0000#16) ∧
    decodeTableWord 24 0x00006D = some (.adc 0x0000#16) ∧ decodeTableWord 24 0x0000AE = some (.ldxAbs 0x0000#16) ∧
    decodeTableWord 24 0x0000AC = some (.ldyAbs 0x0000#16) ∧ decodeTableWord 24 0x0000EC = some (.cpx 0x0000#16) ∧
    decodeTableWord 24 0x0000EE = some (.inc 0x0000#16) ∧
    decodeTableWord 24 0x0010FF = some (.sysAddr 0x0010#16) := by decide

theorem test_step_runs_table_words_short :
    runsWord 16 0x00A9 0xA9#8 && runsWord 16 0x00A2 0xA2#8 && runsWord 16 0x00A0 0xA0#8 && runsWord 16 0x00D0 0xD0#8 &&
    runsWord 8 0x8A 0x8A#8 && runsWord 8 0x98 0x98#8 && runsWord 8 0xAA 0xAA#8 && runsWord 8 0xA8 0xA8#8 &&
    runsWord 8 0xEA 0xEA#8 && runsWord 8 0x00 0x00#8 && runsWord 8 0xFF 0xFF#8 = true := by decide

theorem test_step_runs_table_words_long :
    runsWord 24 0x0000AD 0xAD#8 && runsWord 24 0x00008D 0x8D#8 && runsWord 24 0x00006D 0x6D#8 &&
    runsWord 24 0x0000AE 0xAE#8 && runsWord 24 0x0000AC 0xAC#8 && runsWord 24 0x0000EC 0xEC#8 &&
    runsWord 24 0x0000EE 0xEE#8 && runsWord 24 0x0000FF 0xFF#8 = true := by decide

/-! ## The address unit and the cells -/

/-- S2, M5, M6. -/
theorem test_compose_address :
    composeAddress (setLob 0x34#8 (setHob 0x12#8 State.reset)) = some 0x1234#16 ∧
    composeAddress (setLob 0x00#8 (setHob 0x00#8 State.reset)) = some 0x0000#16 ∧
    composeAddress (setLob 0x10#8 State.reset) = none := by decide

/-- M2: the halves are cleared; M1: with both unset the access is at `MAR`. -/
theorem test_register_mediated_read :
    answers (auRead { withBytes 0x0200#16 [0x09#8] State.reset with hob := some 0x02#8, lob := some 0x00#8, mar := 0x1234#16 })
      (fun s => s.mdr == 0x09#8 && s.mar == 0x0200#16 && s.hob == none && s.lob == none) &&
    answers (auRead { withBytes 0x0200#16 [0x09#8] State.reset with mar := 0x0200#16 })
      (fun s => s.mdr == 0x09#8 && s.mar == 0x0200#16) = true := by decide

/-- M3. -/
theorem test_register_mediated_write :
    answers (auWrite { State.reset with hob := some 0xFF#8, lob := some 0xFF#8, mdr := 0xAB#8 })
      (fun s => s.cell 0xFFFF#16 == 0xAB#8 && s.mar == 0xFFFF#16 && s.hob == none && s.lob == none) = true := by decide

/-- Writing zero takes the entry out, so equal memories are equal lists. -/
theorem test_write_keeps_canonical_form :
    Memory.write [(1, 0x11#8), (5, 0x55#8)] 5 0x00#8 = [(1, 0x11#8)] ∧
    Memory.write [(1, 0x11#8), (5, 0x55#8)] 3 0x33#8 = [(1, 0x11#8), (3, 0x33#8), (5, 0x55#8)] ∧
    Memory.wf [(1, 0x11#8), (1, 0x55#8)] = false ∧ Memory.wf [(65536, 0x11#8)] = false ∧
    Memory.wf [(1, 0x00#8)] = false := by decide

/-- M9. -/
theorem test_load_at_the_top :
    answers (load [0xA9, 0x01] 0xFFFE State.reset) (fun s =>
      s.cell 0xFFFE#16 == 0xA9#8 && s.cell 0xFFFF#16 == 0x01#8 && s.mar == 0xFFFF#16 && s.mdr == 0x01#8) = true := by
  decide

/-! ## One step of each instruction -/

/-- L1: no flag is touched. -/
theorem test_lda_imm : answers (step { program 0x0100#16 [0xA9#8, 0x00#8] with a := 0x55#8, zFlag := true }) (fun s =>
    s.a == 0x00#8 && s.zFlag && s.pc == 0x0102#16 && s.tempStore == 0x00#8 && s.step == .fetch) = true := by decide

/-- L15: the operand is read past the wrap. -/
theorem test_lda_imm_wraps : answers (step (program 0xFFFF#16 [0xA9#8, 0x7E#8])) (fun s =>
    s.a == 0x7E#8 && s.pc == 0x0001#16) = true := by decide

/-- L3. -/
theorem test_lda_abs : answers (step (withBytes 0x1234#16 [0x5A#8] (program 0x0100#16 [0xAD#8, 0x34#8, 0x12#8]))) (fun s =>
    s.a == 0x5A#8 && s.pc == 0x0103#16 && s.mar == 0x1234#16 && s.mdr == 0x5A#8 && s.hob == none) = true := by decide

/-- L16: the operand straddles the wrap. -/
theorem test_lda_abs_wraps :
    answers (step (withBytes 0x1234#16 [0x5A#8] (program 0xFFFE#16 [0xAD#8, 0x34#8, 0x12#8]))) (fun s =>
      s.a == 0x5A#8 && s.pc == 0x0001#16) = true := by decide

/-- L5. -/
theorem test_sta : answers (step { program 0x0100#16 [0x8D#8, 0x00#8, 0x02#8] with a := 0x42#8 }) (fun s =>
    s.cell 0x0200#16 == 0x42#8 && s.a == 0x42#8 && s.mar == 0x0200#16 && s.mdr == 0x42#8 && s.lob == none) = true := by
  decide

/-- L7, L8. -/
theorem test_txa_tya :
    answers (step { program 0x0100#16 [0x8A#8] with x := 0x09#8, y := 0xFF#8 }) (fun s =>
      s.a == 0x09#8 && s.x == 0x09#8 && s.pc == 0x0101#16) &&
    answers (step { program 0x0100#16 [0x98#8] with x := 0x09#8, y := 0xFF#8 }) (fun s => s.a == 0xFF#8) = true := by
  decide

/-- L11, L14. -/
theorem test_tax_tay :
    answers (step { program 0x0100#16 [0xAA#8] with a := 0x11#8, y := 0x33#8 }) (fun s =>
      s.x == 0x11#8 && s.a == 0x11#8 && s.y == 0x33#8) &&
    answers (step { program 0x0100#16 [0xA8#8] with x := 0x22#8, y := 0x33#8 }) (fun s =>
      s.y == 0x00#8 && s.x == 0x22#8) = true := by decide

/-- L9, L10. -/
theorem test_ldx :
    answers (step (program 0x0100#16 [0xA2#8, 0x02#8])) (fun s => s.x == 0x02#8) &&
    answers (step (withBytes 0x0010#16 [0x03#8] (program 0x0100#16 [0xAE#8, 0x10#8, 0x00#8]))) (fun s =>
      s.x == 0x03#8 && s.mar == 0x0010#16) = true := by decide

/-- L12, L13. -/
theorem test_ldy :
    answers (step (program 0x0100#16 [0xA0#8, 0x06#8])) (fun s => s.y == 0x06#8) &&
    answers (step (withBytes 0xFFFF#16 [0x80#8] (program 0x0100#16 [0xAC#8, 0xFF#8, 0xFF#8]))) (fun s =>
      s.y == 0x80#8 && s.mar == 0xFFFF#16) = true := by decide

/-- A1 (S3). -/
theorem test_adc_wraps :
    answers (step { withBytes 0x0300#16 [0x02#8] (program 0x0100#16 [0x6D#8, 0x00#8, 0x03#8]) with a := 0xFF#8 }) (fun s =>
      s.a == 0x01#8 && s.tempStore == 0x02#8 && !s.zFlag) = true := by decide

/-- A2: a zero sum sets no flag. -/
theorem test_adc_no_zero_flag :
    answers (step { withBytes 0x0300#16 [0x80#8] (program 0x0100#16 [0x6D#8, 0x00#8, 0x03#8]) with a := 0x80#8 }) (fun s =>
      s.a == 0x00#8 && !s.zFlag) = true := by decide

/-- A6 (S5). -/
theorem test_cpx_equal :
    answers (step { withBytes 0x0040#16 [0x05#8] (program 0x0100#16 [0xEC#8, 0x40#8, 0x00#8]) with x := 0x05#8 }) (fun s =>
      s.zFlag && s.tempStore == 0x05#8 && s.x == 0x05#8) = true := by decide

/-- A7 (S5): the flag is cleared too. -/
theorem test_cpx_different :
    answers (step { withBytes 0x0040#16 [0x06#8] (program 0x0100#16 [0xEC#8, 0x40#8, 0x00#8]) with
      x := 0x05#8, zFlag := true }) (fun s => !s.zFlag) = true := by decide

/-- A10. -/
theorem test_inc :
    answers (step { withBytes 0x0200#16 [0x09#8] (program 0x0100#16 [0xEE#8, 0x00#8, 0x02#8]) with a := 0x77#8 }) (fun s =>
      s.cell 0x0200#16 == 0x0A#8 && s.a == 0x0A#8 && s.mar == 0x0200#16 && s.mdr == 0x0A#8 && s.hob == none &&
        s.lob == none) = true := by decide

/-- A11: `0xFF` wraps and no flag is set. -/
theorem test_inc_wraps :
    answers (step (withBytes 0x0200#16 [0xFF#8] (program 0x0100#16 [0xEE#8, 0x00#8, 0x02#8]))) (fun s =>
      s.cell 0x0200#16 == 0x00#8 && s.a == 0x00#8 && !s.zFlag) = true := by decide

/-- B1, B2, B5, B6. -/
theorem test_bne :
    answers (step (program 0x0010#16 [0xD0#8, 0x03#8])) (fun s => s.pc == 0x0015#16) &&
    answers (step { program 0x0010#16 [0xD0#8, 0x03#8] with zFlag := true }) (fun s => s.pc == 0x0012#16) &&
    answers (step (program 0x0010#16 [0xD0#8, 0x7F#8])) (fun s => s.pc == 0x0091#16) &&
    answers (step (program 0x0010#16 [0xD0#8, 0x80#8])) (fun s => s.pc == 0xFF92#16) = true := by decide

/-- B7, B8 (S4): both wraps. -/
theorem test_bne_wraps :
    answers (step (program 0xFFEE#16 [0xD0#8, 0x20#8])) (fun s => s.pc == 0x0010#16) &&
    answers (step (program 0xFFFF#16 [0xD0#8, 0xFE#8])) (fun s => s.pc == 0xFFFF#16) = true := by decide

/-- B9. -/
theorem test_nop : answers (step (program 0x0010#16 [0xEA#8])) (fun s => s.pc == 0x0011#16 && s.step == .fetch) = true := by
  decide

/-- B10, with an event pending that stays pending (R208). -/
theorem test_brk : answers (step { program 0x0010#16 [0x00#8] with queue := [kbd 1] }) (fun s =>
    s.halted && s.pc == 0x0011#16 && s.step == .execute1 && s.ir == 0x00#8 && s.queue == [kbd 1]) = true := by decide

/-- R144's example. -/
theorem test_invalid_opcode : answers (step (program 0x0030#16 [0x02#8])) (fun s =>
    s.pc == 0x0031#16 && s.ir == 0x02#8 && s.step == .fetch && s.mode == .normal) = true := by decide

/-- R151's example. -/
theorem test_sys_byte : answers (step { program 0x0100#16 [0xFF#8] with x := 0x01#8, y := 0x07#8 }) (fun s =>
    s.out == [.byte 0x07#8] && s.queue == [] && s.pc == 0x0101#16) = true := by decide

/-- R152's example. -/
theorem test_sys_page_string :
    answers (step { withBytes 0x0006#16 [0x48#8, 0x69#8, 0x00#8] (program 0x0004#16 [0xFF#8]) with
      x := 0x02#8, y := 0x06#8 }) (fun s => s.out == [.str [0x48#8, 0x69#8]] && s.pc == 0x0005#16) = true := by decide

/-- R153's example (Y7): the halves stay set. -/
theorem test_sys_addressed_string :
    answers (step { withBytes 0x0300#16 [0x4F#8, 0x4B#8] (program 0x0040#16 [0xFF#8, 0x00#8, 0x03#8]) with x := 0x03#8 })
      (fun s => s.out == [.str [0x4F#8, 0x4B#8]] && s.pc == 0x0043#16 && s.hob == some 0x03#8 && s.lob == some 0x00#8) =
      true := by decide

/-- Y8. -/
theorem test_sys_other : answers (step (program 0x0040#16 [0xFF#8])) (fun s =>
    s.out == [] && s.queue == [] && s.pc == 0x0041#16 && s.step == .fetch) = true := by decide

/-! ## Pulses, interrupts and reports -/

/-- I1, I2, I3. -/
theorem test_post_order :
    (post (con 1) (post (kbd 1) State.reset)).queue = [con 1, kbd 1] ∧
    (post (kbd 2) { State.reset with queue := [con 1, con 2, kbd 1] }).queue = [con 1, con 2, kbd 1, kbd 2] := by decide

/-- I4, I5. -/
theorem test_next :
    (nextEvent { State.reset with queue := [con 1, kbd 1] }).1 = some (con 1) ∧
    (nextEvent { State.reset with queue := [con 1, kbd 1] }).2.queue = [kbd 1] ∧
    (nextEvent State.reset).1 = none := by decide

/-- I6, I10. -/
theorem test_interrupt_check :
    answers (tick { phaseState .interruptCheck 0xEA#8 with mode := .interruptServicing }) (fun s =>
      s.mode == .normal && s.step == .fetch) &&
    answers (tick { phaseState .interruptCheck 0xEA#8 with queue := [con 1], conBuf := [.byte 0x07#8] }) (fun s =>
      s.out == [.byte 0x07#8] && s.conBuf == [] && s.mode == .interruptServicing && s.step == .interruptCheck) =
      true := by decide

/-- I11: no service before step 6. -/
theorem test_no_service_in_execute :
    answers (tick { phaseState .execute1 0xA9#8 with queue := [kbd 1], tempStore := 0x05#8 }) (fun s =>
      s.a == 0x05#8 && s.step == .interruptCheck && s.queue == [kbd 1]) = true := by decide

/-- I12. -/
theorem test_unknown_source :
    answers (tick { phaseState .interruptCheck 0xEA#8 with
      queue := [{ irq := 9, priority := 2, name := .other "Timer" }], kbdBuf := [0x41#8] }) (fun s =>
      s.queue == [] && s.mode == .interruptServicing && s.kbdBuf == [0x41#8]) = true := by decide

/-- The parts of I7 and I9 that do not depend on the open `KEY_ACTION`: what a key with each action does. -/
theorem test_key_handler :
    keyHandler .nothing State.reset = State.reset ∧ (keyHandler .toggleDiag State.reset).diag = !Config.diagInitial ∧
    (keyHandler .greeting State.reset).conBuf = [.str Config.greeting] := ⟨rfl, rfl, rfl⟩

/-- R97, R154, R191: the reports. -/
theorem test_reports :
    tickReports { phaseState .decode1 0x02#8 with diag := true } = [.diag (.invalidOpcode 0x02#8)] ∧
    tickReports { phaseState .decode1 0xFF#8 with diag := true, x := 0x04#8 } = [.diag (.invalidSystemCall 0x04#8)] ∧
    tickReports { phaseState .decode1 0x02#8 with diag := false } = [] ∧
    dumpListing 65535 65536 State.reset = [(65535, some 0x00#8), (65536, none)] := by decide

/-! ## Witnesses: states and operands that meet the hypotheses of the statements -/

theorem witness_DecodeOfEncodeIsTheInstruction :
    (Instr.sys).wellFormed 2#8 = true ∧ (Instr.sysAddr 0xFFFF#16).wellFormed 3#8 = true ∧
    (Instr.bne 0x80#8).wellFormed 3#8 = true := by decide

theorem witness_EncodeOfDecodeIsTheBytes :
    decode 3#8 [0xFF#8, 0x10#8, 0x00#8, 0xEA#8] = .ok (.sysAddr 0x0010#16, [0xEA#8]) := by decide

/-- Both halves set, at the ends of their range; a half unset; exactly one half set. -/
theorem witness_ComposedAddressOrFault :
    (∃ s : State, s.hob = some 0xFF#8 ∧ s.lob = some 0x00#8) ∧ (State.reset.hob = none ∨ State.reset.lob = none) ∧
    ∃ s : State, s.hob.isSome ≠ s.lob.isSome :=
  ⟨⟨setLob 0x00#8 (setHob 0xFF#8 State.reset), rfl, rfl⟩, .inl rfl,
    ⟨setLob 0x10#8 State.reset, by simp [setLob, State.reset]⟩⟩

theorem witness_RegisterMediatedAccess :
    (State.reset.hob = none ∧ State.reset.lob = none) ∧ ∃ s : State, s.hob = some 0x00#8 ∧ s.lob = some 0xFF#8 :=
  ⟨⟨rfl, rfl⟩, ⟨setLob 0xFF#8 (setHob 0x00#8 State.reset), rfl, rfl⟩⟩

theorem witness_CellAccessGoesThroughMarAndMdr : State.reset.cells.wf = true ∧ 0xFFFF ≠ State.reset.mar.toNat := by decide

theorem witness_FetchPulse : InPhase .fetch { State.reset with pc := 0xFFFF#16, queue := [kbd 1] } := ⟨rfl, rfl⟩

/-- A state for each of the four classes. -/
theorem witness_Decode1PulseByClass :
    (InPhase .decode1 (phaseState .decode1 0xA9#8) ∧ classify 0xA9#8 0#8 = .constantOperand) ∧
    (InPhase .decode1 { phaseState .decode1 0xFF#8 with x := 3#8 } ∧ classify 0xFF#8 3#8 = .twoByteAddress) ∧
    (InPhase .decode1 { phaseState .decode1 0xFF#8 with x := 4#8 } ∧ classify 0xFF#8 4#8 = .noOperand) ∧
    (InPhase .decode1 (phaseState .decode1 0xFE#8) ∧ classify 0xFE#8 0#8 = .invalid) :=
  ⟨⟨⟨rfl, rfl⟩, rfl⟩, ⟨⟨rfl, rfl⟩, rfl⟩, ⟨⟨rfl, rfl⟩, rfl⟩, ⟨⟨rfl, rfl⟩, rfl⟩⟩

theorem witness_Decode2Pulse :
    ∃ s : State, InPhase .decode2 s ∧ s.lob = some 0x34#8 :=
  ⟨{ phaseState .decode2 0xAD#8 with lob := some 0x34#8 }, ⟨rfl, rfl⟩, rfl⟩

theorem witness_WriteBackPulse :
    (∃ s : State, InPhase .writeBack s ∧ s.hob = none ∧ s.lob = none) ∧
    (∃ s : State, InPhase .writeBack s ∧ s.hob = some 0xFF#8 ∧ s.lob = some 0xFF#8) :=
  ⟨⟨phaseState .writeBack 0xEE#8, ⟨rfl, rfl⟩, rfl, rfl⟩,
    ⟨{ phaseState .writeBack 0x8D#8 with hob := some 0xFF#8, lob := some 0xFF#8 }, ⟨rfl, rfl⟩, rfl, rfl⟩⟩

theorem witness_NothingChangesAfterTheHalt : (halt State.reset).halted = true := rfl

/-- A state in the phase, for each opcode byte that the statements of results name a pulse of (`LoadImmediate`,
`RegisterTransfer`, `StoreAccumulator`, `AddWithoutCarry`, `CompareWithX`, `IncrementMemory`, `NoOperation`,
`BreakHaltsTheClock`), and, for the execute-1 pulses that read memory, with both halves of the address set. -/
theorem witness_pulses_of_the_instructions (p : Phase) (ir : Byte) :
    (InPhase p (phaseState p ir) ∧ (phaseState p ir).ir = ir) ∧
    ∃ s : State, InPhase .execute1 s ∧ s.ir = ir ∧ s.hob = some 0xFF#8 ∧ s.lob = some 0xFF#8 :=
  ⟨⟨⟨rfl, rfl⟩, rfl⟩, { phaseState .execute1 ir with hob := some 0xFF#8, lob := some 0xFF#8 }, ⟨rfl, rfl⟩, rfl, rfl, rfl⟩

theorem witness_StoreAccumulator_and_IncrementMemory :
    State.reset.cells.wf = true ∧ (∃ t, exec (.sta 0xFFFF#16) State.reset = .next t) ∧
    (∃ t, exec (.inc 0xFFFF#16) State.reset = .next t) := ⟨rfl, ⟨_, rfl⟩, ⟨_, rfl⟩⟩

theorem witness_AddWithoutCarry : ∃ t, exec (.adc 0x0300#16) State.reset = .next t := ⟨_, rfl⟩

/-- The three clauses at the ends of their ranges, of the whole instruction and of execute-1: flag set; offsets `0x7F` and
`0x80`. -/
theorem witness_BranchIfZeroFlagClear :
    (∃ s : State, s.zFlag = true) ∧ (State.reset.zFlag = false ∧ (0x7F#8).toNat ≤ 0x7F) ∧ 0x80 ≤ (0x80#8).toNat ∧
    ∀ (z : Bool) (rel : Byte), ∃ s : State, InPhase .execute1 s ∧ s.ir = opcode .bne ∧ s.zFlag = z ∧ s.tempStore = rel :=
  ⟨⟨{ State.reset with zFlag := true }, rfl⟩, ⟨rfl, by decide⟩, by decide, fun z rel =>
    ⟨{ phaseState .execute1 0xD0#8 with zFlag := z, tempStore := rel }, ⟨rfl, rfl⟩, rfl, rfl, rfl⟩⟩

theorem witness_SystemCallOutputsTheByteInY :
    ∃ s : State, s.x = 1#8 ∧ s.queue = [] ∧ s.conBuf = [] ∧ InPhase .decode1 s ∧ s.ir = 0xFF#8 :=
  ⟨{ phaseState .decode1 0xFF#8 with x := 1#8 }, rfl, rfl, rfl, ⟨rfl, rfl⟩, rfl⟩

/-- The string "Hi" of R152's example, and, at the boundary, the empty string. -/
theorem witness_SystemCallOutputsThePageString :
    ∃ s : State, s.x = 2#8 ∧ NoStringUnderWay s ∧ 0x0006#16 = composeWord (hiByte (s.pc + 1#16)) s.y ∧
      (∀ k, k < 2 → s.cells.read (0x0006#16 + BitVec.ofNat 16 k).toNat ≠ 0x00#8) ∧
      s.cells.read (0x0006#16 + BitVec.ofNat 16 2).toNat = 0x00#8 :=
  ⟨{ withBytes 0x0006#16 [0x48#8, 0x69#8] (program 0x0004#16 [0xFF#8]) with x := 2#8, y := 0x06#8 },
    rfl, ⟨rfl, rfl⟩, by decide, by decide, by decide⟩

/-- A state inside the string call of number `x`, reading "Hi" at `0xFFFE`, with the bytes `done` read and an event
pending. -/
def inString (x : Byte) (done : List Byte) : State :=
  { phaseState .execute1 0xFF#8 with
    x := x, y := 0xFE#8, pc := 0xFF01#16, hob := some 0xFF#8, lob := some 0xFE#8, queue := [kbd 1],
    strOffset := done.length, strAccum := done, cells := [(0xFFFE, 0x48#8), (0xFFFF, 0x69#8)] }

/-- The pulses of both string calls: the hypotheses hold inside a string; the next byte lengthens it, or, past the wrap of
the address, is its NUL. -/
theorem witness_pulses_of_the_string_calls (x : Byte) (done : List Byte) :
    (inString x done).x = x ∧ InPhase .execute1 (inString x done) ∧ (inString x done).ir = opcode .sys ∧
    0xFFFE#16 = composeWord (hiByte (inString x done).pc) (inString x done).y ∧
    (inString x done).hob = some 0xFF#8 ∧ (inString x done).lob = some 0xFE#8 ∧ 0xFFFE#16 = composeWord 0xFF#8 0xFE#8 ∧
    0x69#8 = (inString x [0x48#8]).cells.read (0xFFFE#16 + BitVec.ofNat 16 (inString x [0x48#8]).strOffset).toNat ∧
    0x00#8 = (inString x [0x48#8, 0x69#8]).cells.read
      (0xFFFE#16 + BitVec.ofNat 16 (inString x [0x48#8, 0x69#8]).strOffset).toNat :=
  ⟨rfl, ⟨rfl, rfl⟩, rfl, by simp only [inString]; decide, rfl, rfl, by decide, by simp [inString, Memory.read], by simp [inString, Memory.read]⟩

/-- The first pulse of the call with `X = 2`, in decode-1. -/
theorem witness_first_pulse_of_the_page_string :
    ∃ s : State, s.x = 2#8 ∧ InPhase .decode1 s ∧ s.ir = opcode .sys ∧ 0x0000#16 = composeWord (hiByte s.pc) s.y ∧
      0x00#8 = s.cells.read (0x0000#16 + BitVec.ofNat 16 s.strOffset).toNat :=
  ⟨{ phaseState .decode1 0xFF#8 with x := 2#8 }, rfl, ⟨rfl, rfl⟩, rfl, by decide, rfl⟩

theorem witness_SystemCallOutputsTheAddressedString :
    ∃ s : State, s.x = 3#8 ∧ NoStringUnderWay s ∧ (∀ k, k < 0 → s.cells.read (0x0300#16 + BitVec.ofNat 16 k).toNat ≠ 0#8) ∧
      s.cells.read (0x0300#16 + BitVec.ofNat 16 0).toNat = 0x00#8 :=
  ⟨{ State.reset with x := 3#8 }, rfl, ⟨rfl, rfl⟩, by decide, by decide⟩

/-- Both clauses, at the numbers beside the three that have a row. -/
theorem witness_SystemCallOfAnotherNumberDoesNothing :
    (State.reset.x ≠ 1#8 ∧ State.reset.x ≠ 2#8 ∧ State.reset.x ≠ 3#8) ∧
    ∀ p : Phase, ∃ s : State, s.x = 4#8 ∧ InPhase p s ∧ s.ir = 0xFF#8 :=
  ⟨by decide, fun p => ⟨{ phaseState p 0xFF#8 with x := 4#8 }, rfl, ⟨rfl, rfl⟩, rfl⟩⟩

/-- A memory with no zero byte. -/
def fullMemory : Memory := (List.range' 0 65536).map fun a => (a, 0x01#8)

theorem read_of_range (n low a : Nat) (h : low ≤ a) (h2 : a < low + n) :
    Memory.read ((List.range' low n).map fun k => (k, 0x01#8)) a = 0x01#8 := by
  induction n generalizing low with
  | zero => omega
  | succ n ih =>
    rw [List.range'_succ, List.map_cons, Memory.read]
    split
    · rfl
    · exact ih (low + 1) (by omega) (by omega)

theorem witness_StringWithoutNulNeverEnds :
    ∀ x : Byte, ∃ s : State, (∀ a : Word, s.cells.read a.toNat ≠ 0x00#8) ∧ s.x = x := by
  intro x
  refine ⟨{ State.reset with cells := fullMemory, x := x }, fun a => ?_, rfl⟩
  have h : fullMemory.read a.toNat = 0x01#8 := read_of_range 65536 0 a.toNat (Nat.zero_le _) (by omega)
  simp [h]

theorem witness_OperandlessCallWithX3FaultsOnAnUnsetHalf :
    ∃ s : State, s.x = 3#8 ∧ s.hob = none := ⟨{ State.reset with x := 3#8 }, rfl, rfl⟩

theorem witness_EveryWellFormedInstructionAnswersANextState :
    (Instr.sys).wellFormed State.reset.x = true ∧ ∃ s : State, (Instr.sysAddr 0#16).wellFormed s.x = true :=
  ⟨rfl, { State.reset with x := 3#8 }, rfl⟩

theorem witness_FrameOfTheInstructionsThatStoreNothing :
    (Instr.cpx 0xFFFF#16).operation ∉ [Operation.sta, .inc, .brk, .sys] ∧
    ∃ t, exec (.cpx 0xFFFF#16) State.reset = .next t := ⟨by decide, ⟨_, rfl⟩⟩

/-- Both storing instructions run, and the address each statement names is there. -/
theorem witness_FrameOfTheStoringInstructions :
    (∃ t, exec (.sta 0x0200#16) State.reset = .next t) ∧
    composeAddress (staExecute1 (decodedAddress .sta 0x0200#16 State.reset)) = some 0x0200#16 ∧
    (∃ t, exec (.inc 0x0200#16) State.reset = .next t) ∧
    ∃ u, incExecute1 (decodedAddress .inc 0x0200#16 State.reset) = .next u ∧ u.mar = 0x0200#16 :=
  ⟨⟨_, rfl⟩, by decide, ⟨_, rfl⟩, ⟨_, rfl, by decide⟩⟩

theorem witness_FrameOfTheSystemCall :
    (∃ s : State, (Instr.sys).wellFormed s.x = true ∧ s.queue = [] ∧ ∃ t, exec .sys s = .next t) ∧
    ∃ s : State, (Instr.sysAddr 0x0300#16).wellFormed s.x = true ∧ ∃ t, exec (.sysAddr 0x0300#16) s = .next t :=
  ⟨⟨State.reset, rfl, rfl, ⟨_, rfl⟩⟩, ⟨{ State.reset with x := 3#8 }, rfl, ⟨_, rfl⟩⟩⟩

/-- The empty poll, and an event of each kind with and without something in its device's buffer. -/
theorem witness_InterruptCheckPulse :
    InPhase .interruptCheck (phaseState .interruptCheck 0xEA#8) ∧
    (phaseState .interruptCheck 0xEA#8).queue = [] ∧ (phaseState .interruptCheck 0xEA#8).kbdBuf = [] ∧
    ∀ ev : Event, ∃ s : State, InPhase .interruptCheck s ∧ sortByPriority s.queue = [ev] ∧
      s.kbdBuf = [0x41#8] ∧ s.conBuf = [.byte 0x07#8] :=
  ⟨⟨rfl, rfl⟩, rfl, rfl, fun ev =>
    ⟨{ phaseState .interruptCheck 0xEA#8 with queue := [ev], kbdBuf := [0x41#8], conBuf := [.byte 0x07#8] },
      ⟨rfl, rfl⟩, rfl, rfl, rfl⟩⟩

theorem witness_KeyHandlerActions :
    ∃ s : State, InPhase .interruptCheck s ∧ sortByPriority s.queue = [kbd 1] ∧ s.kbdBuf = [0x41#8] :=
  ⟨{ phaseState .interruptCheck 0xEA#8 with queue := [kbd 1], kbdBuf := [0x41#8] }, ⟨rfl, rfl⟩, rfl, rfl⟩

theorem witness_PostInsertsBehindItsEquals : QueueSorted [con 1, con 2, kbd 1] := by
  simp [QueueSorted, con, kbd]

/-- The clauses: an empty queue, one that no run reaches, and a sorted one. -/
theorem witness_NextTakesTheFrontOfTheStableSort :
    State.reset.queue = [] ∧ [kbd 1, con 1] ≠ [] ∧ QueueSorted [con 1, kbd 1] := by
  simp [QueueSorted, con, kbd, State.reset]

theorem witness_ConsoleComesBeforeKeyboard :
    State.reset.queue = [] ∧ (kbd 1).priority = 4 ∧ (kbd 2).priority = 4 := ⟨rfl, rfl, rfl⟩

theorem witness_DrainLoopEndsAtTheNextFetch : State.reset.queue = [] := rfl

/-- Three events, as in program P4. -/
theorem witness_DrainTakesOnePulseMoreThanEvents :
    ∃ s : State, InPhase .interruptCheck s ∧ (∀ c ∈ s.kbdBuf, Config.keyAction c ≠ .greeting) ∧ s.queue.length = 3 :=
  ⟨{ phaseState .interruptCheck 0xFF#8 with queue := [con 1, kbd 1, kbd 2] }, ⟨rfl, rfl⟩, by simp [phaseState, State.reset],
    rfl⟩

theorem witness_ConsoleReadsOneStringBytePerCall :
    (0x00#8 = State.reset.cells.read (0xFFFF#16 + BitVec.ofNat 16 State.reset.strOffset).toNat) ∧
    ∃ s : State, 0x48#8 = s.cells.read (0xFFFF#16 + BitVec.ofNat 16 s.strOffset).toNat ∧ s.strOffset = 1 :=
  ⟨by decide, ⟨{ withBytes 0x0000#16 [0x48#8] State.reset with strOffset := 1, strAccum := [0x41#8] }, by decide, rfl⟩⟩

theorem witness_NoEventIsServicedBeforeStep6 :
    ∃ s t : State, s.step ≠ .interruptCheck ∧ tick s = .next t ∧ s.ir = 0xFF#8 :=
  ⟨{ phaseState .execute1 0xFF#8 with x := 1#8 }, _, by decide, rfl, rfl⟩

theorem witness_OnlyBrkHalts :
    ∃ s t : State, s.halted = false ∧ tick s = .next t ∧ t.halted = true :=
  ⟨phaseState .decode1 0x00#8, _, rfl, rfl, rfl⟩

theorem witness_OnlyCompareWritesTheZeroFlag : ∃ s t : State, tick s = .next t ∧ t.zFlag ≠ s.zFlag :=
  ⟨phaseState .execute2 0xEC#8, _, rfl, by decide⟩

theorem witness_OnlyWriteBackChangesACell :
    ∃ (s t : State) (a : Nat), tick s = .next t ∧ t.cells.read a ≠ s.cells.read a :=
  ⟨{ phaseState .writeBack 0xEE#8 with a := 0x0A#8, mar := 0xFFFF#16 }, _, 65535, rfl, by decide⟩

theorem witness_OutputIsOnlyAppendedTo :
    ∃ s t : State, tick s = .next t ∧ t.out = s.out ++ [.byte 0x07#8] :=
  ⟨{ phaseState .interruptCheck 0xFF#8 with queue := [con 1], conBuf := [.byte 0x07#8] }, _, rfl, rfl⟩

theorem witness_StatusStateIsNeverRead :
    State.reset.step ≠ .interruptCheck ∧ InPhase .interruptCheck (phaseState .interruptCheck 0xEA#8) :=
  ⟨by decide, rfl, rfl⟩

/-- At the wrap: the operand's last byte is the one at `0x0000`. -/
theorem witness_StepRunsTheDecodedInstruction :
    (∃ s : State, AtBoundary s ∧ decode s.x (instructionBytes s) = .ok (.ldaAbs 0x1234#16, [])) ∧
    (phaseState .execute1 0xEA#8).step ≠ .fetch :=
  ⟨⟨program 0xFFFE#16 [0xAD#8, 0x34#8, 0x12#8], ⟨rfl, rfl⟩, by decide⟩, by decide⟩

theorem witness_InvalidOpcodeIsSkippedAsOneByte :
    ∃ s : State, AtBoundary s ∧ classify (s.cells.read s.pc.toNat) s.x = .invalid :=
  ⟨program 0xFFFF#16 [0x02#8], ⟨rfl, rfl⟩, by decide⟩

theorem witness_LoadImmediateTakesFourTicks :
    ∃ s : State, AtBoundary s ∧ s.queue = [] ∧ s.cells.read s.pc.toNat = 0xA9#8 ∧
      s.cells.read (s.pc + 1#16).toNat = 0x00#8 :=
  ⟨program 0xFFFF#16 [0xA9#8], ⟨rfl, rfl⟩, rfl, by decide, by decide⟩

/-- An instruction at the wrap, a system call that has a count, and an invalid opcode. -/
theorem witness_PulseCounts :
    (∃ s : State, AtBoundary s ∧ s.queue = [] ∧ operationOf (s.cells.read s.pc.toNat) = some .inc) ∧
    (∃ s : State, AtBoundary s ∧ s.queue = [] ∧ operationOf (s.cells.read s.pc.toNat) = some .sys ∧ s.x = 1#8) ∧
    ∃ s : State, AtBoundary s ∧ s.queue = [] ∧ operationOf (s.cells.read s.pc.toNat) = none :=
  ⟨⟨program 0xFFFF#16 [0xEE#8], ⟨rfl, rfl⟩, rfl, by decide⟩,
    ⟨{ program 0x0000#16 [0xFF#8] with x := 1#8 }, ⟨rfl, rfl⟩, rfl, by decide, rfl⟩,
    ⟨program 0x0000#16 [0x02#8], ⟨rfl, rfl⟩, rfl, by decide⟩⟩

/-- For `TickKeepsTheInvariant`, `StepKeepsTheInvariant` and `EnvironmentKeepsTheInvariant`: a state between
the two decode pulses of an address, with events pending and a key buffered. -/
theorem witness_invariant_between_the_decode_phases :
    State.Inv { phaseState .decode2 0xAD#8 with lob := some 0x34#8, queue := [con 1, kbd 1], kbdBuf := [0x7F#8] } where
  memory := rfl
  queue := by simp [QueueSorted, con, kbd]
  halves h := absurd rfl h
  lowHalf _ := rfl
  phase := rfl
  operand h := by cases h
  storeAddress h := by cases h
  incAddress h := by rcases h with h | ⟨h, _⟩ <;> cases h
  cursor := rfl
  accumulated := by simp [phaseState, State.reset]
  stringInCall h := absurd rfl h
  keyCodes := by simp
  mode h := by cases h
  halted h := by cases h

/-- The same for a state in the middle of a string system call. -/
theorem witness_invariant_inside_a_string :
    State.Inv { phaseState .execute1 0xFF#8 with x := 2#8, strOffset := 1, strAccum := [0x48#8] } where
  memory := rfl
  queue := .nil
  halves _ := rfl
  lowHalf h := by cases h
  phase := by simp [PhaseMatchesIr, phaseState, classify, operationOf, allOperations, opcode, operationClass]
  operand _ h := by
    simp [phaseState, classify, operationOf, allOperations, opcode, operationClass] at h
  storeAddress h := by cases h
  incAddress h := by rcases h with h | ⟨h, _⟩ <;> cases h
  cursor := rfl
  accumulated := by simp
  stringInCall _ := ⟨rfl, rfl, .inl rfl⟩
  keyCodes := by simp [phaseState, State.reset]
  mode h := by cases h
  halted h := by cases h

/-- Every kind of move answers a next state from the reset state. -/
theorem witness_EnvironmentKeepsTheInvariant :
    (∃ t, perform .reset State.reset = .next t) ∧ (∃ t, perform (.load [0xA9, 0x01] 0xFFFE) State.reset = .next t) ∧
    (∃ t, perform .tick State.reset = .next t) ∧ (∃ t, perform (.key 0x7F#7) State.reset = .next t) ∧
    (∃ t, perform (.post (con 1)) State.reset = .next t) ∧ ∃ t, perform (.dump 0 1) State.reset = .next t :=
  ⟨⟨_, rfl⟩, ⟨_, rfl⟩, ⟨_, rfl⟩, ⟨_, rfl⟩, ⟨_, rfl⟩, ⟨_, rfl⟩⟩

/-- A reachable state: after a load, a tick, a key stroke and an event. -/
theorem witness_NoReachableStateStops :
    ∃ s t u : State, load [0xEA] 0 State.reset = .next s ∧ tick s = .next t ∧ u = post (con 1) (key 0x41#7 t) ∧
      Reachable u :=
  ⟨_, _, _, rfl, rfl, rfl, .post (con 1)
    (.key 0x41#7 (.tick (.boot (.load (bytes := [0xEA]) (start := 0) .reset rfl)) rfl)) (.inl rfl)⟩

/-- The four clauses at the ends of their ranges; a request of no bytes fits at the last start address. -/
theorem witness_LoadStoresItsBytesOrIsRefused :
    State.reset.cells.wf = true ∧ (65535 ≤ 65535 ∧ 65535 + ([] : List Nat).length ≤ 65536) ∧ (0xFFFE ≤ 65535 ∧ 0xFFFE + [0xA9, 255].length ≤ 65536 ∧ ∀ b ∈ [0xA9, 255], b ≤ 255) ∧
    (0xFFFF + [0xA9, 0x01].length > 65536) ∧ (65536 > 65535) ∧ (∃ b ∈ [0, 256], b > 255) := by decide

end Sys2Proof.Tests
end

section
/-! SUPPORT. What the decoder answers, read backwards: the bytes it was given are those of the instruction it answers, and
on the three bytes of the longest instruction it fails for an invalid opcode only. -/

namespace Sys2Proof

theorem decodeConstant_eq_ok {mk : Byte → Instr} {bs rest : List Byte} {i : Instr}
    (h : decodeConstant mk bs = .ok (i, rest)) : ∃ c, i = mk c ∧ bs = c :: rest := by
  cases bs with
  | nil => cases h
  | cons c bs =>
    cases h
    exact ⟨c, rfl, rfl⟩

theorem decodeAddress_eq_ok {mk : Word → Instr} {bs rest : List Byte} {i : Instr}
    (h : decodeAddress mk bs = .ok (i, rest)) : ∃ w, i = mk w ∧ bs = loByte w :: hiByte w :: rest := by
  match bs, h with
  | lo :: hi :: _, rfl =>
    exact ⟨composeWord hi lo, rfl, by rw [Machine.loByte_composeWord, Machine.hiByte_composeWord]⟩

/-- An instruction the decoder answers has the operation asked for, agrees with `X`, and its operand was read
(R71, R77). -/
theorem decodeOperands_eq_ok {x : Byte} {op : Operation} {bs rest : List Byte} {i : Instr}
    (h : decodeOperands x op bs = .ok (i, rest)) :
    i.operation = op ∧ i.wellFormed x = true ∧ bs = i.operandBytes ++ rest := by
  cases op with
  | ldaImm | ldxImm | ldyImm | bne =>
    obtain ⟨c, rfl, rfl⟩ := decodeConstant_eq_ok h
    exact ⟨rfl, rfl, rfl⟩
  | ldaAbs | sta | adc | ldxAbs | ldyAbs | cpx | inc =>
    obtain ⟨w, rfl, rfl⟩ := decodeAddress_eq_ok h
    exact ⟨rfl, rfl, rfl⟩
  | txa | tya | tax | tay | nop | brk =>
    cases h
    exact ⟨rfl, rfl, rfl⟩
  | sys =>
    rw [decodeOperands] at h
    split at h
    case isTrue hx =>
      obtain ⟨w, rfl, rfl⟩ := decodeAddress_eq_ok h
      exact ⟨rfl, by simp [Instr.wellFormed, hx], rfl⟩
    case isFalse hx =>
      cases h
      exact ⟨rfl, by simp [Instr.wellFormed, hx], rfl⟩

/-- The bytes the decoder reads are the instruction's own, and the instruction is well formed for `X`. -/
theorem decode_eq_ok {x : Byte} {bs rest : List Byte} {i : Instr} (h : decode x bs = .ok (i, rest)) :
    encode i ++ rest = bs ∧ i.wellFormed x = true := by
  cases bs with
  | nil => cases h
  | cons b bs =>
    rw [decode] at h
    split at h
    next op hop =>
      obtain ⟨rfl, hw, rfl⟩ := decodeOperands_eq_ok h
      exact ⟨by rw [Machine.opcode_of_operationOf hop]; rfl, hw⟩
    next => cases h

/-- Two bytes are enough for every operand (R70). -/
theorem decodeOperands_two_bytes (x : Byte) (op : Operation) (b c : Byte) :
    ∃ i rest, decodeOperands x op [b, c] = .ok (i, rest) := by
  cases op with
  | sys =>
    rw [decodeOperands]
    split
    · exact ⟨_, _, rfl⟩
    · exact ⟨_, _, rfl⟩
  | _ => exact ⟨_, _, rfl⟩

end Sys2Proof
end

section
/-! SUPPORT. What a tick is in each phase, and what the phases that can stop keep when they do not. -/

namespace Sys2Proof.Machine

section
variable {s : State}

theorem tick_fetch {b : Byte} (h : InPhase .fetch s) (hb : s.cell s.pc = b) : tick s = .next (fetchByte b s) := by
  rw [tick_of_running h.1, cpuPulse, h.2, fetch, hb]

theorem tick_decode1 (h : InPhase .decode1 s) : tick s = decode1 s := by
  rw [tick_of_running h.1, cpuPulse, h.2]

theorem tick_decode1_constant {b : Byte} (h : InPhase .decode1 s) (hc : classify s.ir s.x = .constantOperand)
    (hb : s.cell s.pc = b) : tick s = .next (decode1ConstantByte b s) := by
  rw [tick_decode1 h, decode1, hc, hb]

theorem tick_decode1_address {b : Byte} (h : InPhase .decode1 s) (hc : classify s.ir s.x = .twoByteAddress)
    (hb : s.cell s.pc = b) : tick s = .next (decode1AddressByte b s) := by
  rw [tick_decode1 h, decode1, hc, hb]

theorem tick_decode1_none (h : InPhase .decode1 s) (hc : classify s.ir s.x = .noOperand) :
    tick s = execute1 (decode1None s) := by
  rw [tick_decode1 h, decode1, hc]

theorem tick_decode1_invalid (h : InPhase .decode1 s) (hc : classify s.ir s.x = .invalid) :
    tick s = .next (raiseInvalidOpcode s) := by
  rw [tick_decode1 h, decode1, hc]

theorem tick_decode2 {b : Byte} (h : InPhase .decode2 s) (hb : s.cell s.pc = b) :
    tick s = .next (decode2Byte b s) := by
  rw [tick_of_running h.1, cpuPulse, h.2, decode2, hb]

theorem tick_execute1 (h : InPhase .execute1 s) : tick s = execute1 s := by
  rw [tick_of_running h.1, cpuPulse, h.2]

theorem tick_execute2 (h : InPhase .execute2 s) : tick s = .next (execute2 s) := by
  rw [tick_of_running h.1, cpuPulse, h.2]

theorem tick_writeBack (h : InPhase .writeBack s) : tick s = writeBack s := by
  rw [tick_of_running h.1, cpuPulse, h.2]

theorem tick_interruptCheck (h : InPhase .interruptCheck s) : tick s = .next (interruptCheck s) := by
  rw [tick_of_running h.1, cpuPulse, h.2]

theorem tick_sysExecute1 (h : InPhase .execute1 s) (hir : s.ir = opcode .sys) : tick s = sysExecute1 s := by
  rw [tick_execute1 h, execute1, hir, operationOf_opcode]

theorem tick_adcExecute2 (h : InPhase .execute2 s) (hir : s.ir = opcode .adc) :
    tick s = .next (adcExecute2 s) := by
  rw [tick_execute2 h, execute2, hir, operationOf_opcode]

theorem tick_cpxExecute2 (h : InPhase .execute2 s) (hir : s.ir = opcode .cpx) :
    tick s = .next (cpxExecute2 s) := by
  rw [tick_execute2 h, execute2, hir, operationOf_opcode]

theorem tick_incExecute2 (h : InPhase .execute2 s) (hir : s.ir = opcode .inc) :
    tick s = .next (incExecute2 s) := by
  rw [tick_execute2 h, execute2, hir, operationOf_opcode]

theorem classify_opcode (op : Operation) (x : Byte) : classify (opcode op) x = operationClass x op := by
  rw [classify, operationOf_opcode]

theorem classify_of_operationOf_none {b : Byte} (x : Byte) (h : operationOf b = none) : classify b x = .invalid := by
  rw [classify, h]

/-! What the phases that can stop keep. -/

/-- Write-back ends in interrupt-check, the clock still running (R101). -/
theorem writeBack_inPhase {t : State} (hr : s.halted = false) (h : writeBack s = .next t) :
    InPhase .interruptCheck t := by
  obtain ⟨u, hu, ht⟩ := andThen_eq_next h
  cases ht
  refine ⟨?_, rfl⟩
  rcases auAccess_cases memCellWrite (setMdr s.a s) with ⟨_, _, ha⟩ | ⟨_, _, _, _, ha⟩ | ⟨_, ha⟩
  · cases ha.symm.trans hu
    exact hr
  · cases ha.symm.trans hu
    exact hr
  · cases ha.symm.trans hu

/-- A string pulse keeps the clock and the opcode, and leaves its phase for interrupt-check only (R152, R155). -/
theorem sysStringPulse_frame (start : Word) (s : State) :
    (sysStringPulse start s).halted = s.halted ∧ (sysStringPulse start s).ir = s.ir ∧
      ((sysStringPulse start s).step = s.step ∨ (sysStringPulse start s).step = .interruptCheck) := by
  by_cases h : s.cell (cursorAddress start s.strOffset) = 0x00#8
  · simp [sysStringPulse, consoleOutputString, h]
  · simp [sysStringPulse, consoleOutputString, h]

/-- The same for every execute-1 pulse of SYS (R150). -/
theorem sysExecute1_frame {t : State} (h : sysExecute1 s = .next t) :
    t.halted = s.halted ∧ t.ir = s.ir ∧ (t.step = s.step ∨ t.step = .interruptCheck) := by
  unfold sysExecute1 at h
  split_ifs at h
  · cases h
    exact ⟨rfl, rfl, .inr rfl⟩
  · cases h
    exact sysStringPulse_frame _ s
  · split at h
    · cases h
      exact sysStringPulse_frame _ s
    · cases h
  · cases h
    exact ⟨rfl, rfl, .inr rfl⟩

end

end Sys2Proof.Machine
end

section
/-! SUPPORT. A positive number of ticks as a relation, and its rules: one tick, a tick before, a part of an instruction
after another, the drain loop at the end. -/

namespace Sys2Proof.Machine

/-- Some positive number of ticks from `s` answers `r`. -/
def TicksTo (s : State) (r : Result) : Prop := ∃ n, 0 < n ∧ ticks n s = r

theorem ticks_one (s : State) : ticks 1 s = tick s := by
  rw [ticks_succ]
  cases tick s <;> rfl

section
variable {s t : State} {r : Result} {k : State → Result}

theorem TicksTo.of_tick (h : tick s = r) : TicksTo s r := ⟨1, Nat.one_pos, (ticks_one s).trans h⟩

theorem TicksTo.head (h : tick s = .next t) (ht : TicksTo t r) : TicksTo s r := by
  obtain ⟨n, _, hn⟩ := ht
  exact ⟨n + 1, n.succ_pos, by rw [ticks_succ, h, andThen_next, hn]⟩

/-- Only the first tick looks at where a run starts: two states with the same first tick answer the same. -/
theorem TicksTo.of_tick_eq (h : tick s = tick t) (ht : TicksTo t r) : TicksTo s r := by
  obtain ⟨n, hpos, hn⟩ := ht
  obtain ⟨m, rfl⟩ := Nat.exists_eq_succ_of_ne_zero hpos.ne'
  exact ⟨m + 1, hpos, by rw [ticks_succ, h, ← ticks_succ, hn]⟩

theorem TicksTo.andThen (h : TicksTo s r) (hk : ∀ t, r = .next t → TicksTo t (k t)) :
    TicksTo s (andThen r k) := by
  obtain ⟨m, hpos, rfl⟩ := h
  cases hm : ticks m s with
  | next t =>
    obtain ⟨n, _, hn⟩ := hk t hm
    exact ⟨m + n, by omega, by rw [ticks_add, hm, andThen_next, andThen_next, hn]⟩
  | fault f => exact ⟨m, hpos, hm⟩
  | refused f => exact ⟨m, hpos, hm⟩

/-- The drain loop is a number of interrupt-check pulses: a poll that finds an event stays in the phase (R177). -/
theorem drainFor_ticksTo (fuel : Nat) {s : State} (h : InPhase .interruptCheck s) :
    TicksTo s (.next (drainFor fuel s)) := by
  induction fuel generalizing s with
  | zero => exact .of_tick (tick_interruptCheck h)
  | succ n ih =>
    rw [drainFor]
    split
    case isTrue => exact .of_tick (tick_interruptCheck h)
    case isFalse hq =>
      have hnext : InPhase .interruptCheck (interruptCheck s) :=
        ⟨(interruptCheck_halted s).trans h.1, (interruptCheck_step_of_ne hq).trans h.2⟩
      exact .head (tick_interruptCheck h) (ih hnext)

theorem drain_ticksTo (h : InPhase .interruptCheck s) : TicksTo s (.next (drain s)) :=
  drainFor_ticksTo _ h

theorem TicksTo.finish (h : TicksTo s r) (hr : ∀ t, r = .next t → InPhase .interruptCheck t) :
    TicksTo s (finish r) :=
  h.andThen fun t ht => drain_ticksTo (hr t ht)

/-- The last pulse before the drain loop. -/
theorem ticksTo_finish_next (h : tick s = .next t) (ht : InPhase .interruptCheck t) :
    TicksTo s (finish (.next t)) :=
  .head h (drain_ticksTo ht)

theorem ticksTo_finish_writeBack (h : InPhase .writeBack s) : TicksTo s (finish (writeBack s)) :=
  .finish (.of_tick (tick_writeBack h)) fun _ ht => writeBack_inPhase h.1 ht

/-- Every execute-1 pulse of a system call is a tick, and the drain loop follows the one that leaves the phase (R155). -/
theorem sysLoop_ticksTo {n : Nat} (hn : 0 < n) {s : State} (h : InPhase .execute1 s) (hir : s.ir = opcode .sys) :
    TicksTo s (sysLoop n s) := by
  induction n generalizing s with
  | zero => exact absurd hn (Nat.lt_irrefl 0)
  | succ n ih =>
    have htick : tick s = sysExecute1 s := tick_sysExecute1 h hir
    rw [sysLoop]
    cases hs : sysExecute1 s with
    | next t =>
      have hfirst : tick s = .next t := htick.trans hs
      obtain ⟨hhalted, hirt, hstep⟩ := sysExecute1_frame hs
      rw [andThen_next]
      split
      case isTrue ht =>
        rcases n.eq_zero_or_pos with rfl | hpos
        · exact .of_tick hfirst
        · exact .head hfirst (ih hpos ⟨hhalted.trans h.1, ht⟩ (hirt.trans hir))
      case isFalse ht =>
        have hcheck : t.step = .interruptCheck := hstep.resolve_left fun he => ht (he.trans h.2)
        exact .head hfirst (drain_ticksTo ⟨hhalted.trans h.1, hcheck⟩)
    | fault f => exact .of_tick (htick.trans hs)
    | refused f => exact .of_tick (htick.trans hs)

end

end Sys2Proof.Machine
end

section
/-! SUPPORT. A whole instruction as a number of ticks, in two parts: the pulses up to the state in which its execute-1
begins, and the pulses from there to the end of the drain loop. -/

namespace Sys2Proof.Machine

/-- The state in which execute-1 of `i` begins, `s` being the boundary it is fetched at. -/
def decodedInstr (i : Instr) (s : State) : State :=
  match i with
  | .ldaImm c | .ldxImm c | .ldyImm c | .bne c => decodedConstant i.operation c s
  | .ldaAbs w | .sta w | .adc w | .ldxAbs w | .ldyAbs w | .cpx w | .inc w | .sysAddr w =>
    decodedAddress i.operation w s
  | .txa | .tya | .tax | .tay | .nop | .brk | .sys => decodedNone i.operation s

section
variable {s : State} {r : Result} {op : Operation}

/-! ## Fetch and decode -/

theorem decodedInstr_inPhase (i : Instr) (hr : s.halted = false) : InPhase .execute1 (decodedInstr i s) := by
  cases i <;> exact ⟨hr, rfl⟩

/-- Fetch, then decode-1, whose pulse is the first pulse of execute-1 too (R95). -/
theorem ticksTo_of_decodedNone (h : AtBoundary s) (hb : s.cell s.pc = opcode op)
    (hc : operationClass s.x op = .noOperand) (hd : TicksTo (decodedNone op s) r) : TicksTo s r := by
  have hclass : classify (opcode op) s.x = .noOperand := (classify_opcode op s.x).trans hc
  have hdecode : tick (fetchByte (opcode op) s) = execute1 (decodedNone op s) := tick_decode1_none ⟨h.1, rfl⟩ hclass
  have hexecute : tick (decodedNone op s) = execute1 (decodedNone op s) := tick_execute1 ⟨h.1, rfl⟩
  exact .head (tick_fetch h hb) (.of_tick_eq (hdecode.trans hexecute.symm) hd)

/-- Fetch and decode-1 of one operand byte (R94). -/
theorem ticksTo_of_decodedConstant {c : Byte} (h : AtBoundary s) (hb : s.cell s.pc = opcode op)
    (hb1 : s.cell (s.pc + 1#16) = c) (hc : operationClass s.x op = .constantOperand)
    (hd : TicksTo (decodedConstant op c s) r) : TicksTo s r := by
  have hclass : classify (opcode op) s.x = .constantOperand := (classify_opcode op s.x).trans hc
  have hdecode : tick (fetchByte (opcode op) s) = .next (decodedConstant op c s) :=
    tick_decode1_constant ⟨h.1, rfl⟩ hclass hb1
  exact .head (tick_fetch h hb) (.head hdecode hd)

/-- Fetch, decode-1 and decode-2 of the two address bytes (R96, R98). -/
theorem ticksTo_of_decodedAddress {w : Word} (h : AtBoundary s) (hb : s.cell s.pc = opcode op)
    (hb1 : s.cell (s.pc + 1#16) = loByte w) (hb2 : s.cell (s.pc + 2#16) = hiByte w)
    (hc : operationClass s.x op = .twoByteAddress) (hd : TicksTo (decodedAddress op w s) r) : TicksTo s r := by
  have hclass : classify (opcode op) s.x = .twoByteAddress := (classify_opcode op s.x).trans hc
  have hdecode1 : tick (fetchByte (opcode op) s) =
      .next (decode1AddressByte (loByte w) (fetchByte (opcode op) s)) :=
    tick_decode1_address ⟨h.1, rfl⟩ hclass hb1
  have hdecode2 : tick (decode1AddressByte (loByte w) (fetchByte (opcode op) s)) = .next (decodedAddress op w s) := by
    rw [← pc_add_two] at hb2
    exact tick_decode2 ⟨h.1, rfl⟩ hb2
  exact .head (tick_fetch h hb) (.head hdecode1 (.head hdecode2 hd))

/-- The pulses before execute-1, for the instruction whose bytes stand at `PC`. -/
theorem ticksTo_of_decodedInstr {i : Instr} {rest : List Byte} (h : AtBoundary s) (hw : i.wellFormed s.x = true)
    (hbytes : encode i ++ rest = instructionBytes s) (hd : TicksTo (decodedInstr i s) r) : TicksTo s r := by
  injection hbytes.symm with hb htail
  cases i with
  | ldaImm c | ldxImm c | ldyImm c | bne c =>
    injection htail with hb1
    exact ticksTo_of_decodedConstant h hb hb1 rfl hd
  | ldaAbs w | sta w | adc w | ldxAbs w | ldyAbs w | cpx w | inc w =>
    injection htail with hb1 htail
    injection htail with hb2
    exact ticksTo_of_decodedAddress h hb hb1 hb2 rfl hd
  | txa | tya | tax | tay | nop | brk => exact ticksTo_of_decodedNone h hb rfl hd
  | sys =>
    have hx : s.x ≠ 3#8 := by simpa [Instr.wellFormed] using hw
    exact ticksTo_of_decodedNone h hb (if_neg hx) hd
  | sysAddr w =>
    have hx : s.x = 3#8 := by simpa [Instr.wellFormed] using hw
    injection htail with hb1 htail
    injection htail with hb2
    exact ticksTo_of_decodedAddress h hb hb1 hb2 (if_pos hx) hd

/-! ## From execute-1 on -/

/-- An execute-1 that reads its memory operand and goes on by `f`: the access does not stop, and keeps the clock and the
opcode. -/
theorem ticksTo_of_operandRead {w : Word} {f : State → State} {k : State → Result} (hr : s.halted = false)
    (hexec : execute1 (decodedAddress op w s) = andThen (auRead (decodedAddress op w s)) fun t => .next (f t))
    (h : ∀ t, t.halted = false → t.ir = opcode op → TicksTo (f t) (k (f t))) :
    TicksTo (decodedAddress op w s) (andThen (andThen (auRead (decodedAddress op w s)) fun t => .next (f t)) k) := by
  have htick : tick (decodedAddress op w s) = execute1 (decodedAddress op w s) := tick_execute1 ⟨hr, rfl⟩
  rw [hexec, auRead_decodedAddress] at htick
  rw [auRead_decodedAddress]
  exact .head htick (h _ hr rfl)

/-- From execute-1 on, the meaning of an instruction is a number of ticks. -/
theorem exec_ticksTo (i : Instr) (hr : s.halted = false) : TicksTo (decodedInstr i s) (exec i s) := by
  have hexecute := tick_execute1 (decodedInstr_inPhase i hr)
  cases i with
  | ldaImm | ldxImm | ldyImm | txa | tya | tax | tay | nop | bne => exact ticksTo_finish_next hexecute ⟨hr, rfl⟩
  | ldaAbs =>
    rw [exec, execLdaAbs, finish]
    exact ticksTo_of_operandRead hr rfl fun t ht _ => drain_ticksTo ⟨ht, rfl⟩
  | ldxAbs =>
    rw [exec, execLdxAbs, finish]
    exact ticksTo_of_operandRead hr rfl fun t ht _ => drain_ticksTo ⟨ht, rfl⟩
  | ldyAbs =>
    rw [exec, execLdyAbs, finish]
    exact ticksTo_of_operandRead hr rfl fun t ht _ => drain_ticksTo ⟨ht, rfl⟩
  | sta => exact .head hexecute (ticksTo_finish_writeBack ⟨hr, rfl⟩)
  | adc w =>
    rw [exec, execAdc, finish, andThen_assoc]
    exact ticksTo_of_operandRead hr rfl fun t ht hir =>
      ticksTo_finish_next (tick_adcExecute2 ⟨ht, rfl⟩ hir) ⟨ht, rfl⟩
  | cpx w =>
    rw [exec, execCpx, finish, andThen_assoc]
    exact ticksTo_of_operandRead hr rfl fun t ht hir =>
      ticksTo_finish_next (tick_cpxExecute2 ⟨ht, rfl⟩ hir) ⟨ht, rfl⟩
  | inc w =>
    rw [exec, execInc, finish, andThen_assoc]
    exact ticksTo_of_operandRead hr rfl fun t ht hir =>
      .head (tick_incExecute2 ⟨ht, rfl⟩ hir) (ticksTo_finish_writeBack ⟨ht, rfl⟩)
  | brk => exact .of_tick hexecute
  | sys | sysAddr => exact sysLoop_ticksTo (by decide) ⟨hr, rfl⟩ rfl

/-! ## The step -/

theorem step_of_decode {i : Instr} {rest : List Byte} (h : AtBoundary s)
    (hd : decode s.x (instructionBytes s) = .ok (i, rest)) : step s = exec i s := by
  simp [step, h.1, h.2, hd]

theorem step_of_invalid (h : AtBoundary s) (hop : operationOf (s.cell s.pc) = none) :
    step s = runInvalidOpcode (s.cell s.pc) s := by
  simp [step, h.1, h.2, instructionBytes, decode, hop]

/-- Away from a boundary a step is one tick. -/
theorem step_of_not_atBoundary (h : ¬ AtBoundary s) : step s = tick s := by
  cases hh : s.halted with
  | true => simp [step, tick_of_halted hh, hh]
  | false => simp [step, hh, show s.step ≠ .fetch from fun hf => h ⟨hh, hf⟩]

/-- The pulses of an invalid opcode: fetch, decode-1, and the drain loop (R97, R144). -/
theorem runInvalidOpcode_ticksTo (h : AtBoundary s) (hop : operationOf (s.cell s.pc) = none) :
    TicksTo s (runInvalidOpcode (s.cell s.pc) s) := by
  have hdecode : tick (fetchByte (s.cell s.pc) s) = .next (raiseInvalidOpcode (fetchByte (s.cell s.pc) s)) :=
    tick_decode1_invalid ⟨h.1, rfl⟩ (classify_of_operationOf_none s.x hop)
  exact .head (tick_fetch h rfl) (ticksTo_finish_next hdecode ⟨h.1, rfl⟩)

end

/-- Settles O49: away from a boundary a step is one tick; at a boundary an invalid opcode is skipped pulse by pulse, and
the instruction decoded is run pulse by pulse. -/
theorem aStepIsANumberOfTicks : Obligations.AStepIsANumberOfTicks := by
  intro s
  change TicksTo s (step s)
  by_cases h : AtBoundary s
  case neg => exact .of_tick (step_of_not_atBoundary h).symm
  case pos =>
    cases hop : operationOf (s.cell s.pc) with
    | none => exact step_of_invalid h hop ▸ runInvalidOpcode_ticksTo h hop
    | some op =>
      obtain ⟨i, rest, hd⟩ : ∃ i rest, decode s.x (instructionBytes s) = .ok (i, rest) := by
        rw [instructionBytes, decode, hop]
        exact decodeOperands_two_bytes s.x op _ _
      obtain ⟨hbytes, hw⟩ := decode_eq_ok hd
      exact step_of_decode h hd ▸ ticksTo_of_decodedInstr h hw hbytes (exec_ticksTo i h.1)

end Sys2Proof.Machine
end

section
/-! SUPPORT. What the phases answer and what they leave unchanged: the register-mediated accesses, execute-1, execute-2
and write-back. -/

namespace Sys2Proof.Machine

section
variable {s t : State}

/-- All a register-mediated read can do (R48): it reads at some address and leaves the halves unset, or it finds
exactly one half set. -/
theorem auRead_cases (s : State) :
    (∃ m, auRead s = .next { s with mar := m, mdr := s.cell m, hob := none, lob := none }) ∨
    (s.hob.isSome ≠ s.lob.isSome ∧ auRead s = .fault .composeUnset) := by
  rcases auAccess_cases memCellRead s with ⟨hh, hl, h⟩ | ⟨hi, lo, _, _, h⟩ | h
  · exact .inl ⟨s.mar, h.trans (by simp [memCellRead, hh, hl])⟩
  · exact .inl ⟨composeWord hi lo, h⟩
  · exact .inr h

/-- Write-back with the address unit's halves unset stores to the address in `MAR` (R49, R101). -/
theorem writeBack_of_unset (hh : s.hob = none) (hl : s.lob = none) :
    writeBack s = .next { s with mdr := s.a, cells := s.cells.write s.mar.toNat s.a, step := .interruptCheck } := by
  rw [writeBack, auWrite, auAccess_unset memCellWrite (s := setMdr s.a s) hh hl]
  rfl

/-- Write-back with both halves set stores to the composed address (R49, R101). -/
theorem writeBack_of_set {hi lo : Byte} (hh : s.hob = some hi) (hl : s.lob = some lo) :
    writeBack s = .next { s with
      mar := composeWord hi lo, mdr := s.a, cells := s.cells.write (composeWord hi lo).toNat s.a, hob := none,
      lob := none, step := .interruptCheck } := by
  rw [writeBack, auWrite, auAccess_set memCellWrite (s := setMdr s.a s) hh hl]
  rfl

/-- All write-back can do: `A` goes to some cell, and the halves are then unset, or it finds exactly one half set. -/
theorem writeBack_cases (s : State) :
    (∃ m, writeBack s = .next { s with
      mar := m, mdr := s.a, cells := s.cells.write m.toNat s.a, hob := none, lob := none, step := .interruptCheck }) ∨
    (s.hob.isSome ≠ s.lob.isSome ∧ writeBack s = .fault .composeUnset) := by
  rcases auAccess_cases memCellWrite (setMdr s.a s) with ⟨hh, hl, _⟩ | ⟨hi, lo, hh, hl, _⟩ | ⟨hne, h⟩
  · rw [setMdr_hob] at hh
    rw [setMdr_lob] at hl
    exact .inl ⟨s.mar, by simp [writeBack_of_unset hh hl, hh, hl]⟩
  · exact .inl ⟨composeWord hi lo, writeBack_of_set hh hl⟩
  · exact .inr ⟨hne, by rw [writeBack, auWrite, h]; rfl⟩

theorem auRead_eq_next (h : auRead s = .next t) :
    ∃ m, t = { s with mar := m, mdr := s.cell m, hob := none, lob := none } := by
  rcases auRead_cases s with ⟨m, hm⟩ | ⟨_, hf⟩
  · cases hm.symm.trans h
    exact ⟨m, rfl⟩
  · cases hf.symm.trans h

theorem auRead_of_halves (h : s.hob.isSome = s.lob.isSome) :
    ∃ m, auRead s = .next { s with mar := m, mdr := s.cell m, hob := none, lob := none } :=
  (auRead_cases s).resolve_right fun hf => hf.1 h

theorem writeBack_of_halves (h : s.hob.isSome = s.lob.isSome) :
    ∃ m, writeBack s = .next { s with
      mar := m, mdr := s.a, cells := s.cells.write m.toNat s.a, hob := none, lob := none, step := .interruptCheck } :=
  (writeBack_cases s).resolve_right fun hf => hf.1 h

theorem writeBack_eq_next (h : writeBack s = .next t) :
    ∃ m, t = { s with
      mar := m, mdr := s.a, cells := s.cells.write m.toNat s.a, hob := none, lob := none,
      step := .interruptCheck } := by
  rcases writeBack_cases s with ⟨m, hm⟩ | ⟨_, hf⟩
  · cases hm.symm.trans h
    exact ⟨m, rfl⟩
  · cases hf.symm.trans h

/-- All a string pulse can do (R152, R188): a NUL hands the string over and ends the call, another byte lengthens it. -/
theorem sysStringPulse_cases (start : Word) (s : State) :
    (∃ m, sysStringPulse start s = { s with
      mar := m, mdr := 0x00#8, conBuf := s.conBuf ++ [.str s.strAccum],
      queue := sortByPriority (s.queue ++ [consoleEvent]), strAccum := [], strOffset := 0, step := .interruptCheck }) ∨
    (∃ m b, b ≠ 0x00#8 ∧ sysStringPulse start s = { s with
      mar := m, mdr := b, strAccum := s.strAccum ++ [b], strOffset := s.strOffset + 1 }) := by
  by_cases h : s.cell (cursorAddress start s.strOffset) = 0x00#8
  · exact .inl ⟨cursorAddress start s.strOffset, by simp [sysStringPulse, consoleOutputString, h]⟩
  · exact .inr ⟨cursorAddress start s.strOffset, _, h, by simp [sysStringPulse, consoleOutputString, h]⟩

end

end Sys2Proof.Machine
end

section
/-! SUPPORT. All that a tick can do to `zFlag`, `halted`, `OUT` and the status fields, said once. -/

namespace Sys2Proof.Machine

/-- The fields that a pulse leaves alone when it is none of interrupt-check, BRK's execute-1 and CPX's execute-2. -/
def PulseFrame (s t : State) : Prop :=
  t = { t with
    zFlag := s.zFlag, halted := s.halted, mode := s.mode, sources := s.sources, out := s.out, kbdBuf := s.kbdBuf,
    diag := s.diag }

section
variable {s t : State}

theorem PulseFrame.zFlag (h : PulseFrame s t) : t.zFlag = s.zFlag := (congrArg State.zFlag h :)

theorem PulseFrame.halted (h : PulseFrame s t) : t.halted = s.halted := (congrArg State.halted h :)

theorem PulseFrame.out (h : PulseFrame s t) : t.out = s.out := (congrArg State.out h :)

theorem sysStringPulse_pulseFrame (start : Word) (s : State) : PulseFrame s (sysStringPulse start s) := by
  rcases sysStringPulse_cases start s with ⟨_, h⟩ | ⟨_, _, _, h⟩
  · rw [h]
    exact rfl
  · rw [h]
    exact rfl

/-- All an execute-1 pulse of SYS can do (R150). -/
theorem sysExecute1_cases (h : sysExecute1 s = .next t) :
    (s.x = 1#8 ∧ t = sysOutputByte s) ∨ ((s.x = 2#8 ∨ s.x = 3#8) ∧ ∃ start, t = sysStringPulse start s) ∨
    (s.x ≠ 1#8 ∧ s.x ≠ 2#8 ∧ s.x ≠ 3#8 ∧ t = raiseInvalidOpcode s) := by
  unfold sysExecute1 at h
  split_ifs at h with h1 h2 h3
  · cases h
    exact .inl ⟨h1, rfl⟩
  · cases h
    exact .inr (.inl ⟨.inl h2, _, rfl⟩)
  · split at h
    · cases h
      exact .inr (.inl ⟨.inr h3, _, rfl⟩)
    · cases h
  · cases h
    exact .inr (.inr ⟨h1, h2, h3, rfl⟩)

theorem sysExecute1_pulseFrame (h : sysExecute1 s = .next t) : PulseFrame s t := by
  rcases sysExecute1_cases h with ⟨_, rfl⟩ | ⟨_, start, rfl⟩ | ⟨_, _, _, rfl⟩
  · exact rfl
  · exact sysStringPulse_pulseFrame start s
  · exact rfl

/-- An execute-1 that reads its memory operand, and then changes none of the fields of `PulseFrame`. -/
theorem auRead_andThen_pulseFrame {f : State → State} (h : (andThen (auRead s) fun u => .next (f u)) = .next t)
    (hf : ∀ u, PulseFrame u (f u)) : PulseFrame s t := by
  obtain ⟨u, hu, ht⟩ := andThen_eq_next h
  obtain ⟨m, rfl⟩ := auRead_eq_next hu
  cases ht
  exact hf _

theorem execute1_brk (h : s.ir = opcode .brk) : execute1 s = .next (halt s) := by
  rw [execute1, h, operationOf_opcode]
  rfl

/-- Execute-1 of everything but BRK (R99). -/
theorem execute1_pulseFrame (hir : s.ir ≠ opcode .brk) (h : execute1 s = .next t) : PulseFrame s t := by
  cases hop : operationOf s.ir with
  | none =>
    rw [execute1, hop] at h
    cases h
    exact rfl
  | some op =>
    rw [execute1, hop] at h
    cases op with
    | ldaImm | ldxImm | ldyImm | sta | txa | tya | tax | tay | nop | bne =>
      cases h
      exact rfl
    | ldaAbs | ldxAbs | ldyAbs | adc | cpx | inc =>
      exact auRead_andThen_pulseFrame h fun _ => rfl
    | sys => exact sysExecute1_pulseFrame h
    | brk => exact absurd (opcode_of_operationOf hop) hir

/-- All an execute-2 pulse can do (R100). -/
theorem execute2_cases (s : State) :
    (s.ir = opcode .cpx ∧ execute2 s = cpxExecute2 s) ∨ PulseFrame s (execute2 s) := by
  cases hop : operationOf s.ir with
  | none =>
    rw [execute2, hop]
    exact .inr rfl
  | some op =>
    rw [execute2, hop]
    cases op with
    | cpx => exact .inl ⟨opcode_of_operationOf hop, rfl⟩
    | _ => exact .inr rfl

/-- Execute-1, in its own pulse or in that of decode-1 (R95, R142). -/
theorem execute1_decode1None_cases (h : execute1 (decode1None s) = .next t) :
    (s.ir = opcode .brk ∧ t = { s with step := .execute1, halted := true }) ∨ PulseFrame s t := by
  by_cases hir : s.ir = opcode .brk
  · rw [execute1_brk (s := decode1None s) hir] at h
    cases h
    exact .inl ⟨hir, rfl⟩
  · exact .inr (execute1_pulseFrame (s := decode1None s) hir h)

/-- All a decode-1 pulse can do (R93). -/
theorem decode1_cases (h : decode1 s = .next t) :
    (s.ir = opcode .brk ∧ t = { s with step := .execute1, halted := true }) ∨ PulseFrame s t := by
  unfold decode1 at h
  split at h
  · cases h
    exact .inr rfl
  · cases h
    exact .inr rfl
  · exact execute1_decode1None_cases h
  · cases h
    exact .inr rfl

theorem decode1None_of_execute1 (h : s.step = .execute1) : decode1None s = s := by
  rw [decode1None, ← h]

/-- All a tick can do to the fields of `PulseFrame`: the three pulses that write one of them, or none of them changes
(R16, R18, R27, R28). -/
theorem tick_cases (h : tick s = .next t) :
    (InPhase .interruptCheck s ∧ t = interruptCheck s) ∨
    ((s.step = .decode1 ∨ s.step = .execute1) ∧ s.ir = opcode .brk ∧ t = { s with step := .execute1, halted := true }) ∨
    (s.step = .execute2 ∧ s.ir = opcode .cpx ∧ t = cpxExecute2 s) ∨ PulseFrame s t := by
  cases hr : s.halted with
  | true =>
    rw [tick_of_halted hr] at h
    cases h
    exact .inr (.inr (.inr rfl))
  | false =>
    cases hp : s.step with
    | fetch =>
      rw [tick_fetch ⟨hr, hp⟩ rfl] at h
      cases h
      exact .inr (.inr (.inr rfl))
    | decode1 =>
      rw [tick_decode1 ⟨hr, hp⟩] at h
      exact (decode1_cases h).elim (fun hbrk => .inr (.inl ⟨.inl rfl, hbrk⟩)) fun hf => .inr (.inr (.inr hf))
    | decode2 =>
      rw [tick_decode2 ⟨hr, hp⟩ rfl] at h
      cases h
      exact .inr (.inr (.inr rfl))
    | execute1 =>
      rw [tick_execute1 ⟨hr, hp⟩, ← decode1None_of_execute1 hp] at h
      exact (execute1_decode1None_cases h).elim (fun hbrk => .inr (.inl ⟨.inr rfl, hbrk⟩)) fun hf =>
        .inr (.inr (.inr hf))
    | execute2 =>
      rw [tick_execute2 ⟨hr, hp⟩] at h
      cases h
      exact (execute2_cases s).elim (fun hcpx => .inr (.inr (.inl ⟨rfl, hcpx⟩))) fun hf => .inr (.inr (.inr hf))
    | writeBack =>
      rw [tick_writeBack ⟨hr, hp⟩] at h
      obtain ⟨m, rfl⟩ := writeBack_eq_next h
      exact .inr (.inr (.inr rfl))
    | interruptCheck =>
      rw [tick_interruptCheck ⟨hr, hp⟩] at h
      cases h
      exact .inl ⟨⟨hr, hp⟩, rfl⟩

/-- A poll emits one unit or none (R179). -/
theorem interruptCheck_out (s : State) :
    (interruptCheck s).out = s.out ∨ ∃ u, (interruptCheck s).out = s.out ++ [u] := by
  rcases interruptCheck_cases s with ⟨_, h⟩ | ⟨ev, rest, _, h⟩
  · exact .inl (by rw [h])
  · rw [h]
    rcases serviceEvent_cases ev { s with queue := rest } with h | ⟨u, r, _, _, h⟩ | ⟨code, r, _, _, h⟩
    · exact .inl (by rw [h])
    · exact .inr ⟨u, by rw [h]⟩
    · rw [h]
      rcases keyHandler_cases (Config.keyAction code)
        { s with queue := rest, mode := .interruptServicing, kbdBuf := r } with h | h | h
      · exact .inl (by rw [h])
      · exact .inl (by rw [h])
      · exact .inl (by rw [h, consoleAccept_out])

end

/-- Settles O42: of the pulses `tick_cases` lists only BRK's sets `halted`, and that one changes `step` and `halted`
alone. -/
theorem onlyBrkHalts : Obligations.OnlyBrkHalts := by
  intro s t hr h ht
  have hne : t.halted ≠ s.halted := by simp [hr, ht]
  rcases tick_cases h with ⟨_, rfl⟩ | ⟨hp, hir, rfl⟩ | ⟨_, _, rfl⟩ | hf
  · exact absurd (interruptCheck_halted s) hne
  · exact ⟨hir, hp, rfl, rfl, rfl, rfl⟩
  · exact absurd rfl hne
  · exact absurd hf.halted hne

/-- Settles O43: of the pulses `tick_cases` lists only CPX's execute-2 writes `zFlag`. -/
theorem onlyCompareWritesTheZeroFlag : Obligations.OnlyCompareWritesTheZeroFlag := by
  intro s t h hne
  rcases tick_cases h with ⟨_, rfl⟩ | ⟨_, _, rfl⟩ | ⟨hp, hir, rfl⟩ | hf
  · exact absurd (interruptCheck_zFlag s) hne
  · exact absurd rfl hne
  · exact ⟨hp, hir, rfl⟩
  · exact absurd hf.zFlag hne

/-- Settles O45: of the pulses `tick_cases` lists only interrupt-check writes `OUT`, and a poll emits one unit or
none. -/
theorem outputIsOnlyAppendedTo : Obligations.OutputIsOnlyAppendedTo := by
  intro s t h
  rcases tick_cases h with ⟨hp, rfl⟩ | ⟨_, _, rfl⟩ | ⟨_, _, rfl⟩ | hf
  · exact (interruptCheck_out s).imp_right fun hu => ⟨hp.2, hu⟩
  · exact .inl rfl
  · exact .inl rfl
  · exact .inl hf.out

end Sys2Proof.Machine
end

section
/-! SUPPORT. The invariant, phase by phase: the part of it that does not look at the phase, what each phase asks for
beside it, and what each pulse keeps. -/

namespace Sys2Proof.Machine

/-- The part of the invariant that does not look at the phase, in a running machine with no string read under way. -/
def Settled (s : State) : Prop :=
  s.cells.wf = true ∧ QueueSorted s.queue ∧ (∀ c ∈ s.kbdBuf, c.toNat < 128) ∧ NoStringUnderWay s ∧ s.halted = false

/-- What the invariant asks of the phase outside a string call: the halves, and the values `IR` can have. -/
def PhaseFits (s : State) : Prop :=
  match s.step with
  | .fetch | .decode1 | .interruptCheck => s.hob.isSome = s.lob.isSome
  | .decode2 => classify s.ir s.x = .twoByteAddress ∧ s.lob.isSome = true
  | .execute1 => s.hob.isSome = s.lob.isSome ∧ classify s.ir s.x ≠ .invalid ∧
      (classify s.ir s.x = .twoByteAddress → s.lob.isSome = true)
  | .execute2 => s.hob = none ∧ s.lob = none ∧ (s.ir = opcode .adc ∨ s.ir = opcode .cpx ∨ s.ir = opcode .inc)
  | .writeBack => s.hob.isSome = s.lob.isSome ∧
      (s.ir = opcode .sta ∧ s.lob.isSome = true ∨ s.ir = opcode .inc ∧ s.lob = none)

section
variable {s : State}

/-- In a settled state the invariant is what the phase asks for. -/
theorem Settled.inv (h : Settled s) (hmode : s.mode = .normal ∨ s.step = .interruptCheck) (hp : PhaseFits s) :
    s.Inv := by
  obtain ⟨hmem, hq, hkeys, ⟨hoff, hacc⟩, hrun⟩ := h
  have hm : s.mode = .interruptServicing → s.step = .interruptCheck := fun hs =>
    hmode.resolve_left fun hn => by rw [hn] at hs; cases hs
  have hh : s.halted = true → s.step = .execute1 ∧ s.ir = opcode .brk := fun ht => by rw [hrun] at ht; cases ht
  have hc : s.strOffset = s.strAccum.length := by rw [hoff, hacc]; rfl
  have ha : ∀ b ∈ s.strAccum, b ≠ 0x00#8 := by simp [hacc]
  have hs : s.strAccum ≠ [] → s.step = .execute1 ∧ s.ir = opcode .sys ∧ (s.x = 2#8 ∨ s.x = 3#8) := absurd hacc
  cases hstep : s.step with
  | fetch | decode1 | interruptCheck =>
    simp only [PhaseFits, hstep] at hp
    refine ⟨hmem, hq, fun _ => hp, ?_, ?_, ?_, ?_, ?_, hc, ha, hs, hkeys, hm, hh⟩ <;> simp [PhaseMatchesIr, hstep]
  | decode2 =>
    simp only [PhaseFits, hstep] at hp
    refine ⟨hmem, hq, ?_, fun _ => hp.2, ?_, ?_, ?_, ?_, hc, ha, hs, hkeys, hm, hh⟩ <;>
      simp [PhaseMatchesIr, hstep, hp.1]
  | execute1 =>
    simp only [PhaseFits, hstep] at hp
    obtain ⟨hhalves, hvalid, haddr⟩ := hp
    refine ⟨hmem, hq, fun _ => hhalves, ?_, ?_, fun _ => haddr, ?_, ?_, hc, ha, hs, hkeys, hm, hh⟩ <;>
      simp [PhaseMatchesIr, hstep, hvalid]
  | execute2 =>
    simp only [PhaseFits, hstep] at hp
    obtain ⟨hhob, hlob, hir⟩ := hp
    refine ⟨hmem, hq, ?_, ?_, ?_, ?_, ?_, fun _ => hlob, hc, ha, hs, hkeys, hm, hh⟩ <;>
      simp [PhaseMatchesIr, hstep, hhob, hlob, hir]
  | writeBack =>
    simp only [PhaseFits, hstep] at hp
    obtain ⟨hhalves, ⟨hir, hlob⟩ | ⟨hir, hlob⟩⟩ := hp
    · refine ⟨hmem, hq, fun _ => hhalves, ?_, ?_, ?_, fun _ _ => hlob, ?_, hc, ha, hs, hkeys, hm, hh⟩ <;>
        simp [PhaseMatchesIr, hstep, hir, opcode]
    · refine ⟨hmem, hq, fun _ => hhalves, ?_, ?_, ?_, ?_, fun _ => hlob, hc, ha, hs, hkeys, hm, hh⟩ <;>
        simp [PhaseMatchesIr, hstep, hir, opcode]

/-- A running machine with no string under way is settled; outside a string call none is (R155). -/
theorem State.Inv.settled (h : s.Inv) (hrun : s.halted = false)
    (hcall : ¬ (s.step = .execute1 ∧ s.ir = opcode .sys ∧ (s.x = 2#8 ∨ s.x = 3#8))) : Settled s := by
  have hacc : s.strAccum = [] := by
    by_contra hne
    exact hcall (h.stringInCall hne)
  have hoff : s.strOffset = 0 := by rw [h.cursor, hacc]; rfl
  exact ⟨h.memory, h.queue, h.keyCodes, ⟨hoff, hacc⟩, hrun⟩

theorem State.Inv.settled_of_step (h : s.Inv) (hrun : s.halted = false) (hp : s.step ≠ .execute1) : Settled s :=
  h.settled hrun fun hcall => hp hcall.1

theorem State.Inv.mode_normal (h : s.Inv) (hp : s.step ≠ .interruptCheck) : s.mode = .normal := by
  cases hm : s.mode with
  | normal => rfl
  | interruptServicing => exact absurd (h.mode hm) hp

/-- Posting keeps the queue sorted (R172, R173). -/
theorem Settled.post (h : Settled s) (ev : Event) : Settled (post ev s) := by
  obtain ⟨hmem, _, hkeys, hstr, hrun⟩ := h
  exact ⟨hmem, sortByPriority_sorted _, hkeys, hstr, hrun⟩

/-- Every service keeps what it does not name: a key leaves the FIFO, a greeting posts (R178, R179, R192). -/
theorem Settled.serviceEvent (h : Settled s) (ev : Event) : Settled (serviceEvent ev s) := by
  rcases serviceEvent_cases ev s with he | ⟨u, rest, _, _, he⟩ | ⟨code, rest, _, hbuf, he⟩
  · rw [he]
    exact h
  · rw [he]
    exact h
  · obtain ⟨hmem, hq, hkeys, hstr, hrun⟩ := h
    have hrest : Settled { s with mode := .interruptServicing, kbdBuf := rest } :=
      ⟨hmem, hq, fun c hc => hkeys c (hbuf ▸ List.mem_cons_of_mem _ hc), hstr, hrun⟩
    rw [he]
    rcases keyHandler_cases (Config.keyAction code) { s with mode := .interruptServicing, kbdBuf := rest } with
      hk | hk | hk
    · rwa [hk]
    · rwa [hk]
    · rw [hk]
      exact Settled.post (s := { s with mode := _, kbdBuf := rest, conBuf := _ }) hrest consoleEvent

/-- A poll keeps the settled part (R174, R177). -/
theorem Settled.interruptCheck (h : Settled s) : Settled (interruptCheck s) := by
  rcases interruptCheck_cases s with ⟨_, hi⟩ | ⟨ev, rest, hsort, hi⟩
  · rw [hi]
    exact h
  · obtain ⟨hmem, _, hkeys, hstr, hrun⟩ := h
    have hrest : QueueSorted rest := (hsort ▸ sortByPriority_sorted s.queue).of_cons
    rw [hi]
    exact Settled.serviceEvent (s := { s with queue := rest }) ⟨hmem, hrest, hkeys, hstr, hrun⟩ ev

theorem interruptCheck_of_queue_nil (h : s.queue = []) :
    interruptCheck s = { s with mode := .normal, step := .fetch } := by
  rcases interruptCheck_cases s with ⟨_, hi⟩ | ⟨ev, rest, hsort, _⟩
  · exact hi
  · rw [h] at hsort
    cases hsort

/-! ## Each pulse keeps the invariant -/

theorem interruptCheck_inv (h : s.Inv) (hp : InPhase .interruptCheck s) : (interruptCheck s).Inv := by
  obtain ⟨hrun, hstep⟩ := hp
  have hset : Settled s := h.settled_of_step hrun (by simp [hstep])
  have hhalves : s.hob.isSome = s.lob.isSome := h.halves (by simp [hstep])
  have hafter : (interruptCheck s).hob.isSome = (interruptCheck s).lob.isSome := by simpa using hhalves
  by_cases hq : s.queue = []
  · rw [interruptCheck_of_queue_nil hq]
    exact Settled.inv (s := { s with mode := .normal, step := .fetch }) hset (.inl rfl) hhalves
  · have hst : (interruptCheck s).step = .interruptCheck := (interruptCheck_step_of_ne hq).trans hstep
    exact hset.interruptCheck.inv (.inr hst) (by rw [PhaseFits, hst]; exact hafter)

theorem fetchByte_inv (b : Byte) (h : s.Inv) (hp : InPhase .fetch s) : (fetchByte b s).Inv := by
  obtain ⟨hrun, hstep⟩ := hp
  have hset : Settled s := h.settled_of_step hrun (by simp [hstep])
  exact Settled.inv (s := fetchByte b s) hset (.inl (h.mode_normal (by simp [hstep]))) (h.halves (by simp [hstep]))

theorem decode2Byte_inv (b : Byte) (h : s.Inv) (hp : InPhase .decode2 s) : (decode2Byte b s).Inv := by
  obtain ⟨hrun, hstep⟩ := hp
  have hset : Settled s := h.settled_of_step hrun (by simp [hstep])
  have hclass : classify s.ir s.x = .twoByteAddress := by simpa [PhaseMatchesIr, hstep] using h.phase
  have hlob : s.lob.isSome = true := h.lowHalf hstep
  have hmode : s.mode = .normal := h.mode_normal (by simp [hstep])
  exact Settled.inv (s := decode2Byte b s) hset (.inl hmode) ⟨hlob.symm, by simp [decode2Byte, hclass], fun _ => hlob⟩

theorem writeBack_inv (h : s.Inv) (hp : InPhase .writeBack s) : ∃ t, writeBack s = .next t ∧ t.Inv := by
  obtain ⟨hrun, hstep⟩ := hp
  obtain ⟨hmem, hrest⟩ : Settled s := h.settled_of_step hrun (by simp [hstep])
  obtain ⟨m, hm⟩ := writeBack_of_halves (h.halves (by simp [hstep]))
  have hset : Settled { s with cells := s.cells.write m.toNat s.a } := ⟨Memory.write_wf s.a hmem m.isLt, hrest⟩
  exact ⟨_, hm, Settled.inv hset (.inr rfl) rfl⟩

theorem execute2_inv (h : s.Inv) (hp : InPhase .execute2 s) : (execute2 s).Inv := by
  obtain ⟨hrun, hstep⟩ := hp
  have hset : Settled s := h.settled_of_step hrun (by simp [hstep])
  have hhalves : s.hob.isSome = s.lob.isSome := h.halves (by simp [hstep])
  have hlob : s.lob = none := h.incAddress (.inl hstep)
  have hir : s.ir = opcode .adc ∨ s.ir = opcode .cpx ∨ s.ir = opcode .inc := by
    simpa [PhaseMatchesIr, hstep] using h.phase
  rcases hir with hir | hir | hir <;> rw [execute2, hir, operationOf_opcode]
  · exact Settled.inv (s := adcExecute2 s) hset (.inr rfl) hhalves
  · exact Settled.inv (s := cpxExecute2 s) hset (.inr rfl) hhalves
  · exact Settled.inv (s := incExecute2 s) hset (.inl (h.mode_normal (by simp [hstep])))
      ⟨hhalves, .inr ⟨hir, hlob⟩⟩

/-- A string pulse: the string is handed over, or is one byte longer and still without a NUL (R188). -/
theorem sysStringPulse_inv (start : Word) (h : s.Inv) (hp : InPhase .execute1 s) (hir : s.ir = opcode .sys)
    (hx : s.x = 2#8 ∨ s.x = 3#8) : (sysStringPulse start s).Inv := by
  rcases sysStringPulse_cases start s with ⟨m, he⟩ | ⟨m, b, hb, he⟩
  · have hset : Settled { s with
        queue := sortByPriority (s.queue ++ [consoleEvent]), strAccum := [], strOffset := 0 } :=
      ⟨h.memory, sortByPriority_sorted _, h.keyCodes, ⟨rfl, rfl⟩, hp.1⟩
    rw [he]
    exact Settled.inv (by exact hset) (.inr rfl) (h.halves (by simp [hp.2]))
  · rw [he]
    exact { h with
      cursor := by simp [h.cursor]
      accumulated := by simpa [or_imp, forall_and, hb] using h.accumulated
      stringInCall := fun _ => ⟨hp.2, hir, hx⟩ }

theorem sysExecute1_inv (h : s.Inv) (hp : InPhase .execute1 s) (hir : s.ir = opcode .sys) :
    ∃ t, sysExecute1 s = .next t ∧ t.Inv := by
  have hhalves : s.hob.isSome = s.lob.isSome := h.halves (by simp [hp.2])
  have hset : ¬ (s.x = 2#8 ∨ s.x = 3#8) → Settled s := fun hx => h.settled hp.1 fun hc => hx hc.2.2
  unfold sysExecute1
  split_ifs with h1 h2 h3
  · exact ⟨_, rfl, Settled.inv (s := sysOutputByte s) ((hset (by simp [h1])).post consoleEvent) (.inr rfl) hhalves⟩
  · exact ⟨_, rfl, sysStringPulse_inv _ h hp hir (.inl h2)⟩
  · have hlob : s.lob.isSome = true := h.operand hp.2 (by rw [hir, h3]; rfl)
    obtain ⟨lo, hlo⟩ := Option.isSome_iff_exists.mp hlob
    obtain ⟨hi, hhi⟩ := Option.isSome_iff_exists.mp (hhalves.trans hlob)
    rw [composeAddress_of_set hhi hlo]
    exact ⟨_, rfl, sysStringPulse_inv _ h hp hir (.inr h3)⟩
  · exact ⟨_, rfl, Settled.inv (s := raiseInvalidOpcode s) (hset (by simp [h2, h3])) (.inr rfl) hhalves⟩

/-- With both halves set or both unset an execute-1 that reads memory goes on (R48). -/
theorem auRead_andThen_inv {f : State → State} (hhalves : s.hob.isSome = s.lob.isSome)
    (hf : ∀ m, (f { s with mar := m, mdr := s.cell m, hob := none, lob := none }).Inv) :
    ∃ t, (andThen (auRead s) fun u => .next (f u)) = .next t ∧ t.Inv := by
  obtain ⟨m, hm⟩ := auRead_of_halves hhalves
  exact ⟨_, by rw [hm]; rfl, hf m⟩

theorem execute1_inv (h : s.Inv) (hp : InPhase .execute1 s) : ∃ t, execute1 s = .next t ∧ t.Inv := by
  have hhalves : s.hob.isSome = s.lob.isSome := h.halves (by simp [hp.2])
  have hmode : s.mode = .normal := h.mode_normal (by simp [hp.2])
  have hvalid : classify s.ir s.x ≠ .invalid := by simpa [PhaseMatchesIr, hp.2] using h.phase
  cases hop : operationOf s.ir with
  | none => exact absurd (classify_of_operationOf_none s.x hop) hvalid
  | some op =>
    have hir : s.ir = opcode op := opcode_of_operationOf hop
    have hset : op ≠ .sys → Settled s := fun hne => h.settled hp.1 fun hc => hne <| by
      have := hop.symm.trans (hc.2.1 ▸ operationOf_opcode .sys)
      injection this
    rw [execute1, hop]
    cases op with
    | ldaImm | ldxImm | ldyImm | txa | tya | tax | tay | nop | bne =>
      exact ⟨_, rfl, Settled.inv (by exact hset nofun) (.inr rfl) hhalves⟩
    | sta =>
      have hlob : s.lob.isSome = true := h.operand hp.2 (by rw [hir]; rfl)
      exact ⟨_, rfl, Settled.inv (s := staExecute1 s) (hset nofun) (.inl hmode) ⟨hhalves, .inl ⟨hir, hlob⟩⟩⟩
    | ldaAbs | ldxAbs | ldyAbs =>
      exact auRead_andThen_inv hhalves fun m => Settled.inv (by exact hset nofun) (.inr rfl) rfl
    | adc | cpx | inc =>
      exact auRead_andThen_inv hhalves fun m => Settled.inv (by exact hset nofun) (.inl hmode) ⟨rfl, rfl, by simp [hir]⟩
    | brk => exact ⟨_, rfl, { h with halted := fun _ => ⟨hp.2, hir⟩ }⟩
    | sys => exact sysExecute1_inv h hp hir

theorem decode1_inv (h : s.Inv) (hp : InPhase .decode1 s) : ∃ t, decode1 s = .next t ∧ t.Inv := by
  obtain ⟨hrun, hstep⟩ := hp
  have hset : Settled s := h.settled_of_step hrun (by simp [hstep])
  have hhalves : s.hob.isSome = s.lob.isSome := h.halves (by simp [hstep])
  have hmode : s.mode = .normal := h.mode_normal (by simp [hstep])
  unfold decode1
  split
  next hclass =>
    exact ⟨_, rfl, Settled.inv (s := decode1ConstantByte _ s) hset (.inl hmode)
      ⟨hhalves, by simp [hclass], by simp [hclass]⟩⟩
  next hclass => exact ⟨_, rfl, Settled.inv (s := decode1AddressByte _ s) hset (.inl hmode) ⟨hclass, rfl⟩⟩
  next hclass =>
    have hnone : (decode1None s).Inv :=
      Settled.inv (s := decode1None s) hset (.inl hmode) ⟨hhalves, by simp [hclass], by simp [hclass]⟩
    exact execute1_inv hnone ⟨hrun, rfl⟩
  next hclass => exact ⟨_, rfl, Settled.inv (s := raiseInvalidOpcode s) hset (.inr rfl) hhalves⟩

/-- Every tick goes on, and keeps the invariant. -/
theorem tick_inv (h : s.Inv) : ∃ t, tick s = .next t ∧ t.Inv := by
  cases hrun : s.halted with
  | true => exact ⟨s, tick_of_halted hrun, h⟩
  | false =>
    cases hstep : s.step with
    | fetch => exact ⟨_, tick_fetch ⟨hrun, hstep⟩ rfl, fetchByte_inv _ h ⟨hrun, hstep⟩⟩
    | decode1 => exact tick_decode1 ⟨hrun, hstep⟩ ▸ decode1_inv h ⟨hrun, hstep⟩
    | decode2 => exact ⟨_, tick_decode2 ⟨hrun, hstep⟩ rfl, decode2Byte_inv _ h ⟨hrun, hstep⟩⟩
    | execute1 => exact tick_execute1 ⟨hrun, hstep⟩ ▸ execute1_inv h ⟨hrun, hstep⟩
    | execute2 => exact ⟨_, tick_execute2 ⟨hrun, hstep⟩, execute2_inv h ⟨hrun, hstep⟩⟩
    | writeBack => exact tick_writeBack ⟨hrun, hstep⟩ ▸ writeBack_inv h ⟨hrun, hstep⟩
    | interruptCheck => exact ⟨_, tick_interruptCheck ⟨hrun, hstep⟩, interruptCheck_inv h ⟨hrun, hstep⟩⟩

theorem ticks_inv (n : Nat) {s : State} (h : s.Inv) : ∃ t, ticks n s = .next t ∧ t.Inv := by
  induction n generalizing s with
  | zero => exact ⟨s, rfl, h⟩
  | succ n ih =>
    obtain ⟨t, ht, hinv⟩ := tick_inv h
    rw [ticks_succ, ht]
    exact ih hinv

end

/-- Settles O53: each pulse keeps the invariant, and with the halves both set or both unset none of them stops. -/
theorem tickKeepsTheInvariant : Obligations.TickKeepsTheInvariant := fun _ h => tick_inv h

/-- Settles O54: a step is a number of ticks (O49), and each tick keeps the invariant. -/
theorem stepKeepsTheInvariant : Obligations.StepKeepsTheInvariant := by
  intro s h
  obtain ⟨n, _, hn⟩ := aStepIsANumberOfTicks s
  exact hn ▸ ticks_inv n h

/-- Settles O52: the reset state is settled, and its halves are unset. -/
theorem resetMeetsTheInvariant : Obligations.ResetMeetsTheInvariant := by
  have hset : Settled State.reset := ⟨rfl, .nil, nofun, ⟨rfl, rfl⟩, rfl⟩
  exact hset.inv (.inl rfl) rfl

/-- Settles O58: each is the field's value in `State.reset`. -/
theorem resetValuesOfTheOtherState : Obligations.ResetValuesOfTheOtherState :=
  ⟨rfl, rfl, rfl, rfl, rfl, rfl, rfl, rfl, rfl, rfl, rfl, rfl, rfl, rfl, rfl, rfl, rfl, rfl, rfl, rfl⟩

end Sys2Proof.Machine
end

section
/-! SUPPORT. A tick commutes with every change of the status state `diag`, `sources` and `mode`, and interrupt-check
does not even look at `mode` before it writes it. -/

namespace Sys2Proof.Machine

/-- `s` with `diag`, `sources` and `mode` changed by `d`, `l` and `m`. -/
def restatus (d : Bool → Bool) (l : List SourceName → List SourceName) (m : Mode → Mode) (s : State) : State :=
  { s with diag := d s.diag, sources := l s.sources, mode := m s.mode }

/-- The answer of a run with the status of its state changed. -/
def restatusResult (d : Bool → Bool) (l : List SourceName → List SourceName) (m : Mode → Mode) (r : Result) : Result :=
  andThen r fun t => .next (restatus d l m t)

section
variable (d : Bool → Bool) (l : List SourceName → List SourceName) (m : Mode → Mode) (s : State)

/-- A part that commutes, with an update that commutes after it. -/
theorem restatus_andThen_next {r r' : Result} {f : State → State} (hr : r' = restatusResult d l m r)
    (hf : ∀ u, f (restatus d l m u) = restatus d l m (f u)) :
    (andThen r' fun u => .next (f u)) = restatusResult d l m (andThen r fun u => .next (f u)) := by
  subst hr
  rw [restatusResult, restatusResult, andThen_assoc, andThen_assoc]
  simp [hf]

theorem auAccess_restatus {access : State → State}
    (ha : ∀ u, access (restatus d l m u) = restatus d l m (access u)) :
    auAccess access (restatus d l m s) = restatusResult d l m (auAccess access s) := by
  rcases hh : s.hob with _ | hi <;> rcases hl : s.lob with _ | lo
  · rw [auAccess_unset access hh hl, auAccess_unset access (s := restatus d l m s) hh hl, ha]
    rfl
  · simp [auAccess, composeAddress, restatus, restatusResult, hh, hl]
  · simp [auAccess, composeAddress, restatus, restatusResult, hh, hl]
  · rw [auAccess_set access hh hl, auAccess_set access (s := restatus d l m s) hh hl]
    exact congrArg (fun u => Host.Outcome.next (clearHalves u)) (ha (setMar (composeWord hi lo) s))

theorem writeBack_restatus : writeBack (restatus d l m s) = restatusResult d l m (writeBack s) :=
  restatus_andThen_next d l m (auAccess_restatus d l m (setMdr s.a s) fun _ => rfl) fun _ => rfl

theorem sysStringPulse_restatus (start : Word) :
    sysStringPulse start (restatus d l m s) = restatus d l m (sysStringPulse start s) := by
  by_cases h : s.cell (cursorAddress start s.strOffset) = 0x00#8
  · have h' : (restatus d l m s).cell (cursorAddress start (restatus d l m s).strOffset) = 0x00#8 := h
    simp only [sysStringPulse, consoleOutputString, memRead_mdr, h, h', if_true]
    rfl
  · have h' : ¬ (restatus d l m s).cell (cursorAddress start (restatus d l m s).strOffset) = 0x00#8 := h
    simp only [sysStringPulse, consoleOutputString, memRead_mdr, h, h', if_false]
    rfl

theorem sysExecute1_restatus : sysExecute1 (restatus d l m s) = restatusResult d l m (sysExecute1 s) := by
  have hx : (restatus d l m s).x = s.x := rfl
  have hc : composeAddress (restatus d l m s) = composeAddress s := rfl
  unfold sysExecute1
  rw [hx, hc]
  split_ifs
  · rfl
  · exact congrArg _ (sysStringPulse_restatus d l m s _)
  · cases composeAddress s with
    | some start => exact congrArg _ (sysStringPulse_restatus d l m s start)
    | none => rfl
  · rfl

theorem execute1_restatus : execute1 (restatus d l m s) = restatusResult d l m (execute1 s) := by
  have hir : (restatus d l m s).ir = s.ir := rfl
  rw [execute1, execute1, hir]
  cases operationOf s.ir with
  | none => rfl
  | some op =>
    cases op with
    | ldaAbs | ldxAbs | ldyAbs | adc | cpx | inc =>
      exact restatus_andThen_next d l m (auAccess_restatus d l m s fun _ => rfl) fun _ => rfl
    | sys => exact sysExecute1_restatus d l m s
    | _ => rfl

theorem execute2_restatus : execute2 (restatus d l m s) = restatus d l m (execute2 s) := by
  have hir : (restatus d l m s).ir = s.ir := rfl
  rw [execute2, execute2, hir]
  cases operationOf s.ir with
  | none => rfl
  | some op => cases op <;> rfl

theorem decode1_restatus : decode1 (restatus d l m s) = restatusResult d l m (decode1 s) := by
  have hclass : classify (restatus d l m s).ir (restatus d l m s).x = classify s.ir s.x := rfl
  rw [decode1, decode1, hclass]
  cases classify s.ir s.x with
  | noOperand => exact execute1_restatus d l m (decode1None s)
  | _ => rfl

/-- Outside interrupt-check every pulse commutes with a change of the status. -/
theorem tick_restatus (h : s.step ≠ .interruptCheck ∨ s.halted = true) :
    tick (restatus d l m s) = restatusResult d l m (tick s) := by
  cases hrun : s.halted with
  | true =>
    rw [tick_of_halted hrun, tick_of_halted (s := restatus d l m s) hrun]
    rfl
  | false =>
    rw [tick_of_running hrun, tick_of_running (s := restatus d l m s) hrun, cpuPulse, cpuPulse,
      show (restatus d l m s).step = s.step from rfl]
    cases hstep : s.step with
    | fetch | decode2 => rfl
    | decode1 => exact decode1_restatus d l m s
    | execute1 => exact execute1_restatus d l m s
    | execute2 => exact congrArg _ (execute2_restatus d l m s)
    | writeBack => exact writeBack_restatus d l m s
    | interruptCheck => exact absurd hstep (h.resolve_right (by simp [hrun]))

/-- A key toggles `diag` at most, so its action commutes with a change of `diag` that commutes with negation (R192). -/
theorem keyHandler_restatus (hd : ∀ b, d (!b) = !d b) (action : KeyAction) :
    keyHandler action (restatus d l id s) = restatus d l id (keyHandler action s) := by
  cases action with
  | toggleDiag => simp [keyHandler, restatus, hd]
  | _ => rfl

theorem serviceEvent_restatus (hd : ∀ b, d (!b) = !d b) (ev : Event) :
    serviceEvent ev (restatus d l id s) = restatus d l id (serviceEvent ev s) := by
  unfold serviceEvent
  cases ev.name with
  | other name => rfl
  | console =>
    simp only [serviceConsole, show (restatus d l id s).conBuf = s.conBuf from rfl]
    cases s.conBuf <;> rfl
  | keyboard =>
    simp only [serviceKeyboard, show (restatus d l id s).kbdBuf = s.kbdBuf from rfl]
    cases s.kbdBuf with
    | nil => rfl
    | cons code rest =>
      exact keyHandler_restatus d l { s with mode := .interruptServicing, kbdBuf := rest } hd (Config.keyAction code)

/-- The poll looks at the queue alone, and then services (R177). -/
theorem interruptCheck_restatus (hd : ∀ b, d (!b) = !d b) :
    interruptCheck (restatus d l id s) = restatus d l id (interruptCheck s) := by
  simp only [interruptCheck, nextEvent, show (restatus d l id s).queue = s.queue from rfl]
  cases sortByPriority s.queue with
  | nil => rfl
  | cons ev rest => exact serviceEvent_restatus d l { s with queue := rest } hd ev

theorem tick_restatus_id (hd : ∀ b, d (!b) = !d b) : tick (restatus d l id s) = restatusResult d l id (tick s) := by
  by_cases h : s.step ≠ .interruptCheck ∨ s.halted = true
  · exact tick_restatus d l id s h
  · obtain ⟨hstep, hrun⟩ : s.step = .interruptCheck ∧ s.halted = false := by simpa using h
    rw [tick_interruptCheck ⟨hrun, hstep⟩, tick_interruptCheck (s := restatus d l id s) ⟨hrun, hstep⟩,
      interruptCheck_restatus d l s hd]
    rfl

/-- Servicing writes `mode`, and so does the empty poll (R18, R177). -/
theorem interruptCheck_mode_irrelevant (m : Mode) : interruptCheck { s with mode := m } = interruptCheck s := by
  simp only [interruptCheck, nextEvent]
  cases sortByPriority s.queue <;> rfl

end

/-- Settles O46: each status field apart by the commutation of a tick with `restatus`; at interrupt-check `mode` is
overwritten. -/
theorem statusStateIsNeverRead : Obligations.StatusStateIsNeverRead := by
  intro s l m
  refine ⟨tick_restatus_id not id s fun _ => rfl, tick_restatus_id id (fun _ => l) s fun _ => rfl,
    tick_restatus id id (fun _ => m) s, fun hp => ?_⟩
  rw [tick_interruptCheck hp, tick_interruptCheck (s := { s with mode := m }) hp, interruptCheck_mode_irrelevant]

end Sys2Proof.Machine
end

section
/-! SUPPORT. The frames of the whole instructions other than BRK and SYS: the state in which their drain loop begins,
and what the drain loop leaves unchanged after it. -/

namespace Sys2Proof.Machine

/-- With nothing pending the drain loop is the empty poll alone (R177). -/
theorem drain_of_queue_nil {s : State} (h : s.queue = []) : drain s = { s with mode := .normal, step := .fetch } := by
  rw [drain, List.length_eq_zero_iff.mpr h]
  exact interruptCheck_of_queue_nil h

/-- The fields that belong to the devices, the queue and the clock: no instruction but BRK and SYS writes one before
its drain loop (R34). -/
def DevicesKept (s t : State) : Prop :=
  t = { t with
    queue := s.queue, sources := s.sources, halted := s.halted, conBuf := s.conBuf, strOffset := s.strOffset,
    strAccum := s.strAccum, out := s.out, kbdBuf := s.kbdBuf, diag := s.diag }

/-- What is left of `DevicesKept` after the drain loop: with no event pending, all of it. -/
theorem DevicesKept.drain {s u : State} (h : DevicesKept s u) :
    (drain u).halted = s.halted ∧ (drain u).sources = s.sources ∧ (drain u).strOffset = s.strOffset ∧
    (drain u).strAccum = s.strAccum ∧
    (s.queue = [] → (drain u).queue = [] ∧ (drain u).conBuf = s.conBuf ∧ (drain u).out = s.out ∧
      (drain u).kbdBuf = s.kbdBuf ∧ (drain u).diag = s.diag) := by
  rw [h]
  simp +contextual [drain_of_queue_nil]

/-- Each register is as before, but those that the table of R34 gives to an instruction of operation `op`, or that its
decode writes. -/
def RegistersKept (op : Operation) (s t : State) : Prop :=
  (op ∈ [.ldaImm, .ldaAbs, .txa, .tya, .adc] ∨ t.a = s.a) ∧
  (op ∈ [.ldxImm, .ldxAbs, .tax] ∨ t.x = s.x) ∧
  (op ∈ [.ldyImm, .ldyAbs, .tay] ∨ t.y = s.y) ∧
  (op = .cpx ∨ t.zFlag = s.zFlag) ∧
  (op ∈ [.ldaImm, .ldxImm, .ldyImm, .bne, .adc, .cpx] ∨ t.tempStore = s.tempStore) ∧
  (op ∈ [.ldaAbs, .ldxAbs, .ldyAbs, .adc, .cpx] ∨ t.hob = s.hob ∧ t.lob = s.lob)

/-! The instructions that read memory, from fetch to the drain loop: the operand's byte is in `MDR` (R73), and the
halves are unset after the access (R48). -/

theorem exec_ldaAbs (addr : Word) (s : State) :
    exec (.ldaAbs addr) s = .next (drain { s with
      ir := opcode .ldaAbs, mar := addr, mdr := s.cells.read addr.toNat, a := s.cells.read addr.toNat,
      pc := s.pc + 3#16, hob := none, lob := none, step := .interruptCheck }) := by
  rw [exec, execLdaAbs, ldaAbsExecute1, auRead_decodedAddress]
  rfl

theorem exec_ldxAbs (addr : Word) (s : State) :
    exec (.ldxAbs addr) s = .next (drain { s with
      ir := opcode .ldxAbs, mar := addr, mdr := s.cells.read addr.toNat, x := s.cells.read addr.toNat,
      pc := s.pc + 3#16, hob := none, lob := none, step := .interruptCheck }) := by
  rw [exec, execLdxAbs, ldxAbsExecute1, auRead_decodedAddress]
  rfl

theorem exec_ldyAbs (addr : Word) (s : State) :
    exec (.ldyAbs addr) s = .next (drain { s with
      ir := opcode .ldyAbs, mar := addr, mdr := s.cells.read addr.toNat, y := s.cells.read addr.toNat,
      pc := s.pc + 3#16, hob := none, lob := none, step := .interruptCheck }) := by
  rw [exec, execLdyAbs, ldyAbsExecute1, auRead_decodedAddress]
  rfl

theorem exec_adc (addr : Word) (s : State) :
    exec (.adc addr) s = .next (drain { s with
      ir := opcode .adc, mar := addr, mdr := s.cells.read addr.toNat, tempStore := s.cells.read addr.toNat,
      a := s.a + s.cells.read addr.toNat, pc := s.pc + 3#16, hob := none, lob := none, step := .interruptCheck }) := by
  rw [exec, execAdc, adcExecute1, auRead_decodedAddress]
  rfl

theorem exec_cpx (addr : Word) (s : State) :
    exec (.cpx addr) s = .next (drain { s with
      ir := opcode .cpx, mar := addr, mdr := s.cells.read addr.toNat, tempStore := s.cells.read addr.toNat,
      zFlag := compareFlag (s.cells.read addr.toNat) s.x, pc := s.pc + 3#16, hob := none, lob := none,
      step := .interruptCheck }) := by
  rw [exec, execCpx, cpxExecute1, auRead_decodedAddress]
  rfl

/-- An instruction that stores nothing, up to its drain loop: no cell, no device and only its own registers change. -/
theorem exec_storesNothing {i : Instr} (s : State) (hi : i.operation ∉ [.sta, .inc, .brk, .sys]) :
    ∃ u, exec i s = .next (drain u) ∧ u.cells = s.cells ∧ DevicesKept s u ∧ RegistersKept i.operation s u := by
  cases i with
  | ldaImm | ldxImm | ldyImm | bne =>
    exact ⟨_, rfl, rfl, rfl, by
      simp [RegistersKept, Instr.operation, decodedConstant_eq, ldaImmExecute1, ldxImmExecute1, ldyImmExecute1,
        bneExecute1]⟩
  | txa | tya | tax | tay | nop =>
    exact ⟨_, rfl, rfl, rfl, by
      simp [RegistersKept, Instr.operation, decodedNone_eq, txaExecute1, tyaExecute1, taxExecute1, tayExecute1,
        nopExecute1]⟩
  | ldaAbs w => exact ⟨_, exec_ldaAbs w s, rfl, rfl, by simp [RegistersKept, Instr.operation]⟩
  | ldxAbs w => exact ⟨_, exec_ldxAbs w s, rfl, rfl, by simp [RegistersKept, Instr.operation]⟩
  | ldyAbs w => exact ⟨_, exec_ldyAbs w s, rfl, rfl, by simp [RegistersKept, Instr.operation]⟩
  | adc w => exact ⟨_, exec_adc w s, rfl, rfl, by simp [RegistersKept, Instr.operation]⟩
  | cpx w => exact ⟨_, exec_cpx w s, rfl, rfl, by simp [RegistersKept, Instr.operation]⟩
  | sta | inc | brk | sys | sysAddr => simp [Instr.operation] at hi

/-- Settles O30: the drain loop keeps the registers and the cells, and with no event pending the devices too. -/
theorem frameOfTheInstructionsThatStoreNothing : Obligations.FrameOfTheInstructionsThatStoreNothing := by
  intro i s t hi h
  obtain ⟨u, hu, hcells, hdev, ha, hx, hy, hz, htemp, hhalves⟩ := exec_storesNothing s hi
  cases hu.symm.trans h
  simp only [drain_a, drain_x, drain_y, drain_zFlag, drain_tempStore, drain_hob, drain_lob, drain_cells]
  exact ⟨fun _ => by rw [hcells], ha, hx, hy, hz, htemp, hhalves, hdev.drain⟩

/-- STA from its fetch to its drain loop (R112). -/
theorem exec_sta (addr : Word) (s : State) :
    exec (.sta addr) s = .next (drain { s with
      ir := opcode .sta, mar := addr, mdr := s.a, pc := s.pc + 3#16, cells := s.cells.write addr.toNat s.a,
      hob := none, lob := none, step := .interruptCheck }) := by
  rw [exec, execSta, writeBack_of_set (hi := hiByte addr) (lo := loByte addr) rfl rfl, composeWord_hi_lo,
    decodedAddress_eq]
  rfl

theorem incExecute1_decodedAddress (addr : Word) (s : State) :
    incExecute1 (decodedAddress .inc addr s) = .next { s with
      ir := opcode .inc, mar := addr, mdr := s.cells.read addr.toNat, a := s.cells.read addr.toNat, pc := s.pc + 3#16,
      hob := none, lob := none, step := .execute2 } := by
  rw [incExecute1, auRead_decodedAddress]
  rfl

/-- INC from its fetch to its drain loop (R132). -/
theorem exec_inc (addr : Word) (s : State) :
    exec (.inc addr) s = .next (drain { s with
      ir := opcode .inc, mar := addr, mdr := s.cells.read addr.toNat + 1#8, a := s.cells.read addr.toNat + 1#8,
      pc := s.pc + 3#16, cells := s.cells.write addr.toNat (s.cells.read addr.toNat + 1#8),
      hob := none, lob := none, step := .interruptCheck }) := by
  rw [exec, execInc, incExecute1_decodedAddress, andThen_next]
  rfl

/-- Settles O31: both store to the operand's address alone, and the drain loop keeps the registers and the cells. -/
theorem frameOfTheStoringInstructions : Obligations.FrameOfTheStoringInstructions := by
  intro addr s t
  constructor
  · intro h
    cases (exec_sta addr s).symm.trans h
    have haddr : composeAddress (staExecute1 (decodedAddress .sta addr s)) = some addr :=
      (composeAddress_of_set rfl rfl).trans (congrArg some (composeWord_hi_lo addr))
    refine ⟨fun w hw a ha => ?_, drain_a _, drain_x _, drain_y _, drain_zFlag _, drain_tempStore _,
      DevicesKept.drain rfl⟩
    cases haddr.symm.trans hw
    rw [drain_cells]
    exact Memory.read_write_other _ _ ha
  · intro h
    cases (exec_inc addr s).symm.trans h
    refine ⟨fun u hu a ha => ?_, drain_x _, drain_y _, drain_zFlag _, drain_tempStore _, DevicesKept.drain rfl⟩
    cases (incExecute1_decodedAddress addr s).symm.trans hu
    rw [drain_cells]
    exact Memory.read_write_other _ _ ha

end Sys2Proof.Machine
end

section
/-! SUPPORT. The address unit in full: the composed address as a number and as a shift, the answers of a
register-mediated access by the halves, and the string call that finds no address. -/

namespace Sys2Proof.Machine

section
variable {s : State}

theorem composeWord_toNat (hi lo : Byte) : (composeWord hi lo).toNat = hi.toNat * 256 + lo.toNat := by
  rw [composeWord, BitVec.toNat_append, ← Nat.shiftLeft_add_eq_or_of_lt lo.isLt, Nat.shiftLeft_eq]

theorem composeWord_eq_shift_or (hi lo : Byte) :
    composeWord hi lo = (hi.setWidth 16 <<< 8) ||| lo.setWidth 16 := by
  rw [composeWord, BitVec.append_def, BitVec.shiftLeftZeroExtend_eq]
  rfl

theorem composeAddress_eq_none : composeAddress s = none ↔ s.hob = none ∨ s.lob = none := by
  unfold composeAddress
  cases s.hob <;> cases s.lob <;> simp

/-- With exactly one half set a register-mediated access finds no address (R63). -/
theorem auAccess_of_halves_ne (access : State → State) (h : s.hob.isSome ≠ s.lob.isSome) :
    auAccess access s = .fault .composeUnset := by
  rcases auAccess_cases access s with ⟨hh, hl, _⟩ | ⟨hi, lo, hh, hl, _⟩ | ⟨_, hf⟩
  · simp [hh, hl] at h
  · simp [hh, hl] at h
  · exact hf

/-- Execute-1 of SYS with `X = 3` and no composed address (R63, R153). -/
theorem sysExecute1_of_unset (hx : s.x = 3#8) (h : composeAddress s = none) :
    sysExecute1 s = .fault .composeUnset := by
  simp [sysExecute1, hx, h]

/-- A fault in the first pulse of a system call ends it. -/
theorem sysLoop_of_fault {n : Nat} {f : Fault} (hn : 0 < n) (h : sysExecute1 s = .fault f) :
    sysLoop n s = .fault f := by
  obtain ⟨m, rfl⟩ := Nat.exists_eq_succ_of_ne_zero hn.ne'
  rw [sysLoop, h, andThen_fault]

end

/-- Settles O5: the two accesses by their definitions, and a read after a write by the laws of the cells. -/
theorem cellAccessGoesThroughMarAndMdr : Obligations.CellAccessGoesThroughMarAndMdr := fun s =>
  ⟨rfl, rfl, fun _ ha => Memory.read_write_other s.cells s.mdr ha, Memory.read_write_same s.mdr⟩

/-- Settles O6: `composeWord` as a number and as a shift, and the fault of an access with one half set. -/
theorem composedAddressOrFault : Obligations.ComposedAddressOrFault := fun _ =>
  ⟨fun hi lo hh hl => ⟨composeWord hi lo, composeAddress_of_set hh hl, composeWord_toNat hi lo,
      composeWord_eq_shift_or hi lo⟩,
    composeAddress_eq_none.mpr,
    fun h => ⟨auAccess_of_halves_ne memCellRead h, auAccess_of_halves_ne memCellWrite h⟩⟩

/-- Settles O7: the two arms of a register-mediated access, for the read and for the write. -/
theorem registerMediatedAccess : Obligations.RegisterMediatedAccess := fun _ =>
  ⟨fun hh hl => ⟨auAccess_unset memCellRead hh hl, auAccess_unset memCellWrite hh hl⟩,
    fun _ _ hh hl => ⟨auAccess_set memCellRead hh hl, auAccess_set memCellWrite hh hl⟩⟩

/-- Settles O28: fetch and decode-1 leave `X` and the halves alone, so the first execute-1 pulse finds no address. -/
theorem operandlessCallWithX3FaultsOnAnUnsetHalf : Obligations.OperandlessCallWithX3FaultsOnAnUnsetHalf := by
  intro s hx hunset
  have hnone : composeAddress (decodedNone .sys s) = none := composeAddress_eq_none.mpr hunset
  exact sysLoop_of_fault (by decide) (sysExecute1_of_unset hx hnone)

/-- Settles O57: no cell is listed in the reset memory. -/
theorem resetClearsTheMemory : Obligations.ResetClearsTheMemory := ⟨fun _ => rfl, rfl, rfl⟩

end Sys2Proof.Machine
end

section
/-! SUPPORT. No pulse but write-back changes a cell. -/

namespace Sys2Proof.Machine

section
variable {s t : State}

theorem sysStringPulse_cells (start : Word) (s : State) : (sysStringPulse start s).cells = s.cells := by
  rcases sysStringPulse_cases start s with ⟨_, h⟩ | ⟨_, _, _, h⟩ <;> rw [h]

theorem sysExecute1_cells (h : sysExecute1 s = .next t) : t.cells = s.cells := by
  rcases sysExecute1_cases h with ⟨_, rfl⟩ | ⟨_, start, rfl⟩ | ⟨_, _, _, rfl⟩
  · rfl
  · exact sysStringPulse_cells start s
  · rfl

/-- An execute-1 that reads its memory operand, and then changes no cell. -/
theorem auRead_andThen_cells {f : State → State} (h : (andThen (auRead s) fun u => .next (f u)) = .next t)
    (hf : ∀ u, (f u).cells = u.cells) : t.cells = s.cells := by
  obtain ⟨u, hu, ht⟩ := andThen_eq_next h
  obtain ⟨m, rfl⟩ := auRead_eq_next hu
  cases ht
  exact hf _

theorem execute1_cells (h : execute1 s = .next t) : t.cells = s.cells := by
  cases hop : operationOf s.ir with
  | none =>
    rw [execute1, hop] at h
    cases h
    rfl
  | some op =>
    rw [execute1, hop] at h
    cases op with
    | ldaAbs | ldxAbs | ldyAbs | adc | cpx | inc => exact auRead_andThen_cells h fun _ => rfl
    | sys => exact sysExecute1_cells h
    | _ =>
      cases h
      rfl

theorem execute2_cells (s : State) : (execute2 s).cells = s.cells := by
  rw [execute2]
  split <;> rfl

theorem decode1_cells (h : decode1 s = .next t) : t.cells = s.cells := by
  cases hclass : classify s.ir s.x with
  | noOperand =>
    rw [decode1, hclass] at h
    exact execute1_cells (s := decode1None s) h
  | _ =>
    rw [decode1, hclass] at h
    cases h
    rfl

/-- All a tick can do to the cells: nothing, or a write-back (R43, R64). -/
theorem tick_cells_or_writeBack (h : tick s = .next t) :
    t.cells = s.cells ∨ s.step = .writeBack ∧ writeBack s = .next t := by
  cases hr : s.halted with
  | true =>
    rw [tick_of_halted hr] at h
    cases h
    exact .inl rfl
  | false =>
    rw [tick_of_running hr, cpuPulse] at h
    cases hp : s.step with
    | fetch | decode2 =>
      rw [hp] at h
      cases h
      exact .inl rfl
    | decode1 => exact .inl (decode1_cells (by rwa [hp] at h))
    | execute1 => exact .inl (execute1_cells (by rwa [hp] at h))
    | execute2 =>
      rw [hp] at h
      cases h
      exact .inl (execute2_cells s)
    | writeBack => exact .inr ⟨rfl, by rwa [hp] at h⟩
    | interruptCheck =>
      rw [hp] at h
      cases h
      exact .inl (interruptCheck_cells s)

end

/-- Settles O44: only write-back writes the cells, and it stores `A` at the address it leaves in `MAR`. -/
theorem onlyWriteBackChangesACell : Obligations.OnlyWriteBackChangesACell := by
  intro s t a h hne
  rcases tick_cells_or_writeBack h with hcells | ⟨hp, hw⟩
  · rw [hcells] at hne
    exact absurd rfl hne
  · obtain ⟨m, rfl⟩ := writeBack_eq_next hw
    have ha : a = m.toNat := by
      by_contra hother
      exact hne (Memory.read_write_other s.cells s.a hother)
    exact ⟨hp, ha.symm, rfl⟩

end Sys2Proof.Machine
end

section
/-! SUPPORT. The host's `load` (R52): the request that fits, its last byte, and what each cell reads after it. -/

namespace Sys2Proof.Machine

theorem loadAddressesFit_eq_true {bytes : List Nat} {start : Nat} :
    loadAddressesFit bytes start = true ↔ start ≤ 65535 ∧ start + bytes.length ≤ 65536 := by
  simp [loadAddressesFit]

theorem loadValuesFit_eq_true {bytes : List Nat} : loadValuesFit bytes = true ↔ ∀ b ∈ bytes, b ≤ 255 := by
  simp [loadValuesFit]

section
variable {bytes : List Nat} {start : Nat} {s t : State}

theorem load_of_fits (ha : loadAddressesFit bytes start = true) (hv : loadValuesFit bytes = true) :
    load bytes start s = .next (loadBytes bytes (BitVec.ofNat 16 start) s) := by
  simp [load, ha, hv]

theorem load_of_not_addressesFit (ha : ¬ loadAddressesFit bytes start = true) :
    load bytes start s = .refused .addressOutOfRange := by
  simp [load, ha]

theorem load_of_not_valuesFit (ha : loadAddressesFit bytes start = true) (hv : ¬ loadValuesFit bytes = true) :
    load bytes start s = .refused .valueOutOfRange := by
  simp [load, ha, hv]

/-- A load that is not refused is its loop. -/
theorem load_eq_next (h : load bytes start s = .next t) : t = loadBytes bytes (BitVec.ofNat 16 start) s := by
  unfold load at h
  split_ifs at h
  cases h
  rfl

/-! ## The loop -/

/-- What every `MemWrite` keeps, a load keeps. -/
theorem loadBytes_keeps {P : State → Prop} (h : ∀ addr v u, P u → P (memWrite addr v u)) (bytes : List Nat)
    (addr : Word) (hs : P s) : P (loadBytes bytes addr s) := by
  induction bytes generalizing addr s with
  | nil => exact hs
  | cons b bs ih => exact ih (addr + 1#16) (h addr _ s hs)

theorem loadBytes_wf (bytes : List Nat) (addr : Word) (h : s.cells.wf = true) :
    (loadBytes bytes addr s).cells.wf = true :=
  loadBytes_keeps (P := fun u => u.cells.wf = true) (fun addr v _ hu => Memory.write_wf v hu addr.isLt) bytes addr h

/-- A load changes the cells, `MAR` and `MDR` alone. -/
theorem loadBytes_frame (bytes : List Nat) (addr : Word) (s : State) :
    loadBytes bytes addr s = { s with
      cells := (loadBytes bytes addr s).cells, mar := (loadBytes bytes addr s).mar,
      mdr := (loadBytes bytes addr s).mdr } :=
  loadBytes_keeps (P := fun u => u = { s with cells := u.cells, mar := u.mar, mdr := u.mdr })
    (fun addr v _ hu => congrArg (memWrite addr v) hu) bytes addr rfl

/-- The last byte of a load is stored after the others, that many addresses further on. -/
theorem loadBytes_concat (bs : List Nat) (b : Nat) (addr : Word) (s : State) :
    loadBytes (bs ++ [b]) addr s =
      memWrite (addr + BitVec.ofNat 16 bs.length) (BitVec.ofNat 8 b) (loadBytes bs addr s) := by
  induction bs generalizing addr s with
  | nil => simp [loadBytes]
  | cons c cs ih =>
    have hnext : addr + 1#16 + BitVec.ofNat 16 cs.length = addr + BitVec.ofNat 16 (cs.length + 1) := by
      rw [BitVec.add_assoc, Nat.add_comm, BitVec.ofNat_add]
    rw [List.cons_append, loadBytes, ih, hnext]
    rfl

theorem toNat_ofNat_add_ofNat {start k : Nat} (h : start + k < 65536) :
    (BitVec.ofNat 16 start + BitVec.ofNat 16 k).toNat = start + k := by
  rw [← BitVec.ofNat_add, BitVec.toNat_ofNat, Nat.mod_eq_of_lt h]

/-- A load leaves every cell outside its range. -/
theorem loadBytes_read_outside {a : Nat} (hfit : start + bytes.length ≤ 65536)
    (ha : a < start ∨ start + bytes.length ≤ a) :
    (loadBytes bytes (BitVec.ofNat 16 start) s).cells.read a = s.cells.read a := by
  induction bytes using List.reverseRecOn with
  | nil => rfl
  | append_singleton bs b ih =>
    rw [List.length_append, List.length_singleton] at hfit ha
    have hother : a ≠ (BitVec.ofNat 16 start + BitVec.ofNat 16 bs.length).toNat := by
      rw [toNat_ofNat_add_ofNat (by omega)]
      omega
    rw [loadBytes_concat, memWrite_cells, Memory.read_write_other _ _ hother]
    exact ih (by omega) (by omega)

/-- After a load each address of its range reads as its byte. -/
theorem loadBytes_read_inside (hwf : s.cells.wf = true) (hfit : start + bytes.length ≤ 65536) {k : Nat}
    (hk : k < bytes.length) :
    (loadBytes bytes (BitVec.ofNat 16 start) s).cells.read (start + k) = BitVec.ofNat 8 bytes[k] := by
  induction bytes using List.reverseRecOn with
  | nil => cases hk
  | append_singleton bs b ih =>
    rw [List.length_append, List.length_singleton] at hfit
    rw [loadBytes_concat, memWrite_cells, toNat_ofNat_add_ofNat (by omega)]
    by_cases hlast : k = bs.length
    · subst hlast
      rw [Memory.read_write_same _ (loadBytes_wf bs _ hwf), List.getElem_concat_length rfl]
    · have hlt : k < bs.length := by simp at hk; omega
      rw [Memory.read_write_other _ _ (by omega), List.getElem_append_left hlt]
      exact ih (by omega) hlt

/-- After a load of at least one byte, the last address is in `MAR` and the last byte in `MDR`. -/
theorem loadBytes_mar_mdr (hne : bytes ≠ []) (hfit : start + bytes.length ≤ 65536) :
    (loadBytes bytes (BitVec.ofNat 16 start) s).mar.toNat = start + bytes.length - 1 ∧
      (loadBytes bytes (BitVec.ofNat 16 start) s).mdr = BitVec.ofNat 8 (bytes.getLast hne) := by
  obtain rfl | ⟨bs, b, rfl⟩ := bytes.eq_nil_or_concat'
  · exact absurd rfl hne
  · rw [List.length_append, List.length_singleton] at hfit ⊢
    rw [loadBytes_concat, memWrite_mar, memWrite_mdr, toNat_ofNat_add_ofNat (by omega), List.getLast_concat]
    exact ⟨rfl, rfl⟩

end

theorem toNat_ofNat_byte {b : Nat} (h : b ≤ 255) : (BitVec.ofNat 8 b).toNat = b := by
  rw [BitVec.toNat_ofNat, Nat.mod_eq_of_lt (by omega)]

/-- Settles O59: the address check comes first, then the value check, and a request that passes both is the loop. -/
theorem loadStoresItsBytesOrIsRefused : Obligations.LoadStoresItsBytesOrIsRefused := by
  intro bytes start s hwf
  have hunfit : start > 65535 ∨ start + bytes.length > 65536 →
      load bytes start s = .refused .addressOutOfRange := fun h =>
    load_of_not_addressesFit (by rw [loadAddressesFit_eq_true]; omega)
  refine ⟨fun hstart hfit hvalues => ?_, fun h _ => hunfit h, fun hstart hfit ⟨b, hb, hbig⟩ => ?_,
    fun h _ => .inl (hunfit h)⟩
  · refine ⟨_, load_of_fits (loadAddressesFit_eq_true.mpr ⟨hstart, hfit⟩) (loadValuesFit_eq_true.mpr hvalues),
      fun k hk => ?_, fun a ha => loadBytes_read_outside hfit ha, fun hne => ?_, fun hnil => ?_,
      loadBytes_frame bytes _ s⟩
    · rw [loadBytes_read_inside hwf hfit hk, toNat_ofNat_byte (hvalues _ (List.getElem_mem hk))]
    · obtain ⟨hmar, hmdr⟩ := loadBytes_mar_mdr (s := s) hne hfit
      refine ⟨hmar, ?_⟩
      rw [hmdr, toNat_ofNat_byte (hvalues _ (List.getLast_mem hne)), List.getLast?_eq_some_getLast hne]
    · rw [hnil]
      rfl
  · refine load_of_not_valuesFit (loadAddressesFit_eq_true.mpr ⟨hstart, hfit⟩) fun hv => ?_
    have := loadValuesFit_eq_true.mp hv b hb
    omega

end Sys2Proof.Machine
end

section
/-! SUPPORT. The moves of the host and the environment keep the invariant, so every state a run reaches has it. -/

namespace Sys2Proof.Machine

section
variable {s t : State}

/-- A load changes the cells, and `MAR` and `MDR`, of which the invariant does not speak (R52). -/
theorem load_inv {bytes : List Nat} {start : Nat} (h : s.Inv) (hl : load bytes start s = .next t) : t.Inv := by
  rw [load_eq_next hl]
  exact loadBytes_keeps (fun addr v _ hu => { hu with memory := Memory.write_wf v hu.memory addr.isLt }) bytes _ h

/-- Posting keeps the invariant (R172, R173). -/
theorem post_inv (ev : Event) (h : s.Inv) : (post ev s).Inv :=
  { h with queue := sortByPriority_sorted _ }

/-- A key stroke buffers a 7-bit code and posts its event (R189). -/
theorem key_inv (code : BitVec 7) (h : s.Inv) : (key code s).Inv := by
  have hcode : (code.setWidth 8).toNat < 128 := by
    rw [BitVec.toNat_setWidth_of_le (by decide)]
    exact code.isLt
  have hbuf : ∀ c ∈ s.kbdBuf ++ [code.setWidth 8], c.toNat < 128 :=
    List.forall_mem_append.mpr ⟨h.keyCodes, List.forall_mem_singleton.mpr hcode⟩
  exact post_inv keyboardEvent (s := { s with kbdBuf := _ }) { h with keyCodes := hbuf }

theorem Booted.inv (h : Booted s) : s.Inv := by
  induction h with
  | reset => exact resetMeetsTheInvariant
  | load _ hl ih => exact load_inv ih hl

/-- The invariant holds in every state a run can reach (R35, R218). -/
theorem Reachable.inv (h : Reachable s) : s.Inv := by
  induction h with
  | boot hb => exact hb.inv
  | tick _ ht ih =>
    obtain ⟨u, hu, hinv⟩ := tick_inv ih
    cases hu.symm.trans ht
    exact hinv
  | key code _ ih => exact key_inv code ih
  | post ev _ _ ih => exact post_inv ev ih

end

/-- Settles O56: a reachable state has the invariant, and from there a tick (O53) and a step (O54) go on. -/
theorem noReachableStateStops : Obligations.NoReachableStateStops := by
  intro s h
  obtain ⟨t, ht, _⟩ := tickKeepsTheInvariant s h.inv
  obtain ⟨u, hu, _⟩ := stepKeepsTheInvariant s h.inv
  exact ⟨⟨t, ht⟩, ⟨u, hu⟩⟩

end Sys2Proof.Machine
end

section
/-! SUPPORT. The decoder on an instruction's own bytes, and the bytes of each decode class. -/

namespace Sys2Proof

theorem decodeAddress_loByte_hiByte (mk : Word → Instr) (w : Word) (rest : List Byte) :
    decodeAddress mk (loByte w :: hiByte w :: rest) = .ok (mk w, rest) := by
  rw [decodeAddress, Machine.composeWord_hi_lo]

/-- The operand bytes are read back whole, an address low byte first (R71, R73); `X` selects the form of SYS (R77). -/
theorem decodeOperands_operandBytes {x : Byte} {i : Instr} (h : i.wellFormed x = true) (rest : List Byte) :
    decodeOperands x i.operation (i.operandBytes ++ rest) = .ok (i, rest) := by
  cases i with
  | ldaImm | ldxImm | ldyImm | bne => rfl
  | ldaAbs w | sta w | adc w | ldxAbs w | ldyAbs w | cpx w | inc w => exact decodeAddress_loByte_hiByte _ w rest
  | txa | tya | tax | tay | nop | brk => rfl
  | sys =>
    have hx : x ≠ 3#8 := by simpa [Instr.wellFormed] using h
    exact if_neg hx
  | sysAddr w =>
    have hx : x = 3#8 := by simpa [Instr.wellFormed] using h
    exact (if_pos hx).trans (decodeAddress_loByte_hiByte _ w rest)

/-- Settles O1: the opcode gives the operation back, and the operand bytes the operand. -/
theorem decodeOfEncodeIsTheInstruction : Obligations.DecodeOfEncodeIsTheInstruction := by
  intro x i rest h
  rw [encode, List.cons_append, decode, Machine.operationOf_opcode]
  exact decodeOperands_operandBytes h rest

/-- Settles O2: the decoder's answer read backwards. -/
theorem encodeOfDecodeIsTheBytes : Obligations.EncodeOfDecodeIsTheBytes := fun _ _ _ _ h => decode_eq_ok h

/-! ## The bytes of each class (R76) -/

theorem mem_allOperations (op : Operation) : op ∈ allOperations := by
  cases op <;> decide

/-- A byte is an invalid opcode exactly when no operation has it (R78). -/
theorem operationOf_eq_none_iff {b : Byte} : operationOf b = none ↔ b ∉ allOperations.map opcode := by
  simp [operationOf, List.find?_eq_none]

theorem operationClass_ne_invalid (x : Byte) (op : Operation) : operationClass x op ≠ .invalid := by
  cases op with
  | sys =>
    rw [operationClass]
    split <;> decide
  | _ => nofun

theorem classify_eq_invalid_iff {ir x : Byte} : classify ir x = .invalid ↔ ir ∉ allOperations.map opcode := by
  rw [← operationOf_eq_none_iff, classify]
  split
  next op hop => simp [hop, operationClass_ne_invalid]
  next hop => simp [hop]

/-- A byte of a class other than the invalid one is the opcode of an operation of the class. -/
theorem classify_eq_iff {ir x : Byte} {c : DecodeClass} (hc : c ≠ .invalid) :
    classify ir x = c ↔ ∃ op ∈ allOperations, ir = opcode op ∧ operationClass x op = c := by
  constructor
  · intro h
    cases hop : operationOf ir with
    | none => exact absurd ((Machine.classify_of_operationOf_none x hop).symm.trans h) hc.symm
    | some op =>
      obtain rfl := Machine.opcode_of_operationOf hop
      exact ⟨op, mem_allOperations op, rfl, (Machine.classify_opcode op x).symm.trans h⟩
  · rintro ⟨op, -, rfl, h⟩
    exact (Machine.classify_opcode op x).trans h

/-- The numbers below 256 whose byte is in a list of distinct bytes are the values of those bytes. -/
theorem filter_range_mem_perm {bytes : List Byte} (h : bytes.Nodup) :
    ((List.range 256).filter fun n => BitVec.ofNat 8 n ∈ bytes).Perm (bytes.map BitVec.toNat) := by
  refine (List.perm_ext_iff_of_nodup (List.nodup_range.filter _)
    (h.map fun _ _ => BitVec.eq_of_toNat_eq)).mpr fun n => ?_
  simp only [List.mem_filter, List.mem_range, decide_eq_true_eq, List.mem_map]
  constructor
  · rintro ⟨hn, hmem⟩
    exact ⟨_, hmem, (BitVec.toNat_ofNat n 8).trans (Nat.mod_eq_of_lt hn)⟩
  · rintro ⟨b, hmem, rfl⟩
    exact ⟨b.isLt, by rwa [BitVec.ofNat_toNat, BitVec.setWidth_eq]⟩

theorem nodup_opcodes : (allOperations.map opcode).Nodup := by decide

/-- The opcodes are 18 distinct bytes, so the other 238 are invalid. -/
theorem length_filter_invalid (x : Byte) :
    ((List.range 256).filter fun n => classify (BitVec.ofNat 8 n) x = .invalid).length = 238 := by
  have hvalid := (filter_range_mem_perm nodup_opcodes).length_eq.trans (List.length_map _)
  have hall := List.length_eq_length_filter_add (l := List.range 256)
    fun n => decide (BitVec.ofNat 8 n ∈ allOperations.map opcode)
  have hopcodes : (allOperations.map opcode).length = 18 := rfl
  simp only [classify_eq_invalid_iff, decide_not]
  rw [List.length_range] at hall
  omega

/-- Settles O4: the opcodes of each class by running over the operations, of which SYS alone looks at `X`; the invalid
bytes are the others. -/
theorem classOfEveryOpcodeByte : Obligations.ClassOfEveryOpcodeByte := by
  intro ir x
  refine ⟨?_, ?_, ?_, ?_, length_filter_invalid x⟩
  · simp [classify_eq_iff, allOperations, opcode, operationClass, ite_eq_iff]
  · simp [classify_eq_iff, allOperations, opcode, operationClass, or_assoc]
  · simp [classify_eq_iff, allOperations, opcode, operationClass, or_assoc]
  · exact classify_eq_invalid_iff.trans (not_congr (List.Perm.mem_iff (by decide)))

/-- Settles O3: the decoder run on each word. -/
theorem specWordsDecode : Obligations.SpecWordsDecode := by
  unfold Obligations.SpecWordsDecode
  and_intros <;> rfl

end Sys2Proof
end

section
/-! SUPPORT. The pulses common to all instructions, the stopped clock, and the step at and away from a boundary. -/

namespace Sys2Proof.Machine

section
variable {s : State}

theorem tickReports_decode1 (h : InPhase .decode1 s) : tickReports s = decode1Reports s := by
  rw [tickReports, if_neg (by simp [h.1]), h.2]

/-- An invalid opcode is reported when diagnostics are on (R97, R183). -/
theorem decode1Reports_of_invalid (hc : classify s.ir s.x = .invalid) :
    decode1Reports s = if s.diag then [.diag (.invalidOpcode s.ir)] else [] := by
  rw [decode1Reports, hc, diagReport]

theorem tickReports_of_halted (h : s.halted = true) : tickReports s = [] := if_pos h

theorem ticks_of_halted (n : Nat) (h : s.halted = true) : ticks n s = .next s := by
  induction n with
  | zero => rfl
  | succ n ih => rw [ticks_succ, tick_of_halted h, andThen_next, ih]

theorem step_of_halted (h : s.halted = true) : step s = .next s := if_pos h

end

/-- Settles O8: fetch reads the cell at `PC`, and no part of it looks at the queue. -/
theorem fetchPulse : Obligations.FetchPulse := fun _ h => tick_fetch h rfl

/-- Settles O9: the tick of each class, and the report of an invalid opcode. -/
theorem decode1PulseByClass : Obligations.Decode1PulseByClass := fun _ h =>
  ⟨fun hc => tick_decode1_constant h hc rfl,
    fun hc => tick_decode1_address h hc rfl,
    tick_decode1_none h,
    fun hc => ⟨tick_decode1_invalid h hc, (tickReports_decode1 h).trans (decode1Reports_of_invalid hc)⟩⟩

/-- Settles O10: decode-2 reads the cell at `PC` into `hob`, and both halves compose. -/
theorem decode2Pulse : Obligations.Decode2Pulse := fun _ h =>
  ⟨_, tick_decode2 h rfl, rfl, fun _ hlo => composeAddress_of_set rfl hlo⟩

/-- Settles O11: the two arms of the write. -/
theorem writeBackPulse : Obligations.WriteBackPulse := fun _ h =>
  ⟨fun hh hl => (tick_writeBack h).trans (writeBack_of_unset hh hl),
    fun _ _ hh hl => (tick_writeBack h).trans (writeBack_of_set hh hl)⟩

/-- Settles O12: a tick with the clock stopped answers the state itself, so any number of them does. -/
theorem nothingChangesAfterTheHalt : Obligations.NothingChangesAfterTheHalt := fun _ h =>
  ⟨fun n => ticks_of_halted n h, step_of_halted h, tickReports_of_halted h⟩

/-- Settles O47: the two answers of `step`, by whether the machine is at a boundary. -/
theorem stepRunsTheDecodedInstruction : Obligations.StepRunsTheDecodedInstruction := fun _ =>
  ⟨fun _ _ h hd => step_of_decode h hd, fun hp => step_of_not_atBoundary fun h => hp h.2⟩

end Sys2Proof.Machine
end

section
/-! SUPPORT. All that a tick outside interrupt-check can do to the queue and the console's FIFO: nothing, or one post by a
system call. -/

namespace Sys2Proof.Machine

/-- Queue and console FIFO are kept, or a system call appends one unit and posts its Console event (R187). -/
def KeepsOrPosts (s t : State) : Prop :=
  t.queue = s.queue ∧ t.conBuf = s.conBuf ∨
    s.ir = opcode .sys ∧ t.queue = sortByPriority (s.queue ++ [consoleEvent]) ∧ ∃ u, t.conBuf = s.conBuf ++ [u]

section
variable {s t : State}

theorem PulseFrame.kbdBuf (h : PulseFrame s t) : t.kbdBuf = s.kbdBuf := (congrArg State.kbdBuf h :)

theorem PulseFrame.diag (h : PulseFrame s t) : t.diag = s.diag := (congrArg State.diag h :)

theorem PulseFrame.mode (h : PulseFrame s t) : t.mode = s.mode := (congrArg State.mode h :)

/-- A system call posts when it has a unit to hand over: the byte in `Y`, or the string its NUL ends (R151, R152). -/
theorem sysExecute1_keepsOrPosts (hir : s.ir = opcode .sys) (h : sysExecute1 s = .next t) : KeepsOrPosts s t := by
  rcases sysExecute1_cases h with ⟨_, rfl⟩ | ⟨_, start, rfl⟩ | ⟨_, _, _, rfl⟩
  · exact .inr ⟨hir, rfl, _, rfl⟩
  · rcases sysStringPulse_cases start s with ⟨_, hend⟩ | ⟨_, _, _, hgoOn⟩
    · rw [hend]
      exact .inr ⟨hir, rfl, _, rfl⟩
    · rw [hgoOn]
      exact .inl ⟨rfl, rfl⟩
  · exact .inl ⟨rfl, rfl⟩

/-- An execute-1 that reads its memory operand, and then touches neither queue nor FIFO. -/
theorem auRead_andThen_keepsOrPosts {f : State → State} (h : (andThen (auRead s) fun u => .next (f u)) = .next t)
    (hf : ∀ u, (f u).queue = u.queue ∧ (f u).conBuf = u.conBuf) : KeepsOrPosts s t := by
  obtain ⟨u, hu, ht⟩ := andThen_eq_next h
  obtain ⟨m, rfl⟩ := auRead_eq_next hu
  cases ht
  exact .inl (hf _)

theorem execute1_keepsOrPosts (h : execute1 s = .next t) : KeepsOrPosts s t := by
  cases hop : operationOf s.ir with
  | none =>
    rw [execute1, hop] at h
    cases h
    exact .inl ⟨rfl, rfl⟩
  | some op =>
    rw [execute1, hop] at h
    cases op with
    | ldaAbs | ldxAbs | ldyAbs | adc | cpx | inc => exact auRead_andThen_keepsOrPosts h fun _ => ⟨rfl, rfl⟩
    | sys => exact sysExecute1_keepsOrPosts (opcode_of_operationOf hop) h
    | _ =>
      cases h
      exact .inl ⟨rfl, rfl⟩

theorem decode1_keepsOrPosts (h : decode1 s = .next t) : KeepsOrPosts s t := by
  cases hclass : classify s.ir s.x with
  | noOperand =>
    rw [decode1, hclass] at h
    exact execute1_keepsOrPosts (s := decode1None s) h
  | _ =>
    rw [decode1, hclass] at h
    cases h
    exact .inl ⟨rfl, rfl⟩

theorem execute2_keepsOrPosts (s : State) : KeepsOrPosts s (execute2 s) := by
  rw [execute2]
  split <;> exact .inl ⟨rfl, rfl⟩

theorem tick_keepsOrPosts (hp : s.step ≠ .interruptCheck) (h : tick s = .next t) : KeepsOrPosts s t := by
  cases hr : s.halted with
  | true =>
    rw [tick_of_halted hr] at h
    cases h
    exact .inl ⟨rfl, rfl⟩
  | false =>
    rw [tick_of_running hr, cpuPulse] at h
    cases hstep : s.step with
    | fetch | decode2 =>
      rw [hstep] at h
      cases h
      exact .inl ⟨rfl, rfl⟩
    | decode1 => exact decode1_keepsOrPosts (by rwa [hstep] at h)
    | execute1 => exact execute1_keepsOrPosts (by rwa [hstep] at h)
    | execute2 =>
      rw [hstep] at h
      cases h
      exact execute2_keepsOrPosts s
    | writeBack =>
      rw [hstep] at h
      obtain ⟨m, rfl⟩ := writeBack_eq_next h
      exact .inl ⟨rfl, rfl⟩
    | interruptCheck => exact absurd hstep hp

end

/-- Settles O41: of the pulses `tick_cases` lists only interrupt-check writes a device's output or input, `diag` or
`mode`; the queue and the console's FIFO are those of `tick_keepsOrPosts`. -/
theorem noEventIsServicedBeforeStep6 : Obligations.NoEventIsServicedBeforeStep6 := by
  intro s t hp h
  have hqueue : KeepsOrPosts s t := tick_keepsOrPosts hp h
  rcases tick_cases h with ⟨hcheck, _⟩ | ⟨_, _, rfl⟩ | ⟨_, _, rfl⟩ | hf
  · exact absurd hcheck.2 hp
  · exact ⟨rfl, rfl, rfl, rfl, hqueue⟩
  · exact ⟨rfl, rfl, rfl, rfl, hqueue⟩
  · exact ⟨hf.out, hf.kbdBuf, hf.diag, hf.mode, hqueue⟩

end Sys2Proof.Machine
end

section
/-! SUPPORT. The pulses of an instruction counted (R104): how many ticks lie between its fetch and the next one, with no
event pending. -/

namespace Sys2Proof.Machine

/-- `n` ticks from `s` answer `r`, and each of them begins inside an instruction. -/
def InsideFor (n : Nat) (s : State) (r : Result) : Prop :=
  ticks n s = r ∧ ∀ k t, k < n → ticks k s = .next t → t.step ≠ .fetch ∧ t.halted = false

section
variable {s t : State} {r : Result} {n : Nat} {p : Phase}

/-- The first tick begins inside the instruction, and so does each tick after it. -/
theorem InsideFor.of_succ (hs : InPhase p s) (hp : p ≠ .fetch) (hr : ticks (n + 1) s = r)
    (h : ∀ k t, k < n → ticks (k + 1) s = .next t → t.step ≠ .fetch ∧ t.halted = false) : InsideFor (n + 1) s r := by
  refine ⟨hr, fun k t hk ht => ?_⟩
  cases k with
  | zero =>
    cases ht
    exact ⟨hs.2 ▸ hp, hs.1⟩
  | succ k => exact h k t (Nat.lt_of_succ_lt_succ hk) ht

theorem InsideFor.last (hs : InPhase p s) (hp : p ≠ .fetch) (h : tick s = r) : InsideFor 1 s r :=
  .of_succ hs hp ((ticks_one s).trans h) nofun

theorem InsideFor.head (hs : InPhase p s) (hp : p ≠ .fetch) (h : tick s = .next t) (ht : InsideFor n t r) :
    InsideFor (n + 1) s r :=
  have hticks (m : Nat) : ticks (m + 1) s = ticks m t := by rw [ticks_succ, h, andThen_next]
  .of_succ hs hp ((hticks n).trans ht.1) fun k u hk hu => ht.2 k u hk (hticks k ▸ hu)

/-- A state inside an instruction whose tick is that of `t` goes on as `t` does. -/
theorem InsideFor.of_tick_eq (hs : InPhase p s) (hp : p ≠ .fetch) (h : tick s = tick t) (ht : InsideFor (n + 1) t r) :
    InsideFor (n + 1) s r :=
  have hticks (m : Nat) : ticks (m + 1) s = ticks (m + 1) t := by rw [ticks_succ, ticks_succ, h]
  .of_succ hs hp ((hticks n).trans ht.1) fun k u hk hu => ht.2 (k + 1) u (Nat.succ_lt_succ hk) (hticks k ▸ hu)

/-- The pulse of fetch, and the pulses inside the instruction after it. -/
theorem InsideFor.after_fetch (hs : AtBoundary s) (h : InsideFor n (fetchByte (s.cell s.pc) s) r) :
    ticks (n + 1) s = r ∧
      ∀ k t, 0 < k → k < n + 1 → ticks k s = .next t → t.step ≠ .fetch ∧ t.halted = false := by
  have hticks (m : Nat) : ticks (m + 1) s = ticks m (fetchByte (s.cell s.pc) s) := by
    rw [ticks_succ, tick_fetch hs rfl, andThen_next]
  refine ⟨(hticks n).trans h.1, fun k u hpos hk hu => ?_⟩
  obtain ⟨m, rfl⟩ := Nat.exists_eq_succ_of_ne_zero hpos.ne'
  exact h.2 m u (by omega) (hticks m ▸ hu)

/-! ## The end of an instruction -/

theorem insideFor_drain (hs : InPhase .interruptCheck s) (hq : s.queue = []) : InsideFor 1 s (.next (drain s)) :=
  .last hs (by decide) (by rw [tick_interruptCheck hs, interruptCheck_of_queue_nil hq, drain_of_queue_nil hq])

/-- The service of a Console event posts nothing (R179). -/
theorem interruptCheck_queue_of_console {ev : Event} (hq : s.queue = [ev]) (hev : ev.name = .console) :
    (interruptCheck s).queue = [] := by
  rcases interruptCheck_cases s with ⟨hnil, _⟩ | ⟨ev', rest, hsort, hi⟩
  · simp [hq] at hnil
  · rw [hq] at hsort
    cases hsort
    rw [hi]
    rcases serviceEvent_cases ev { s with queue := [] } with h | ⟨_, _, _, _, h⟩ | ⟨_, _, hkbd, _, _⟩
    · rw [h]
    · rw [h]
    · simp [hev] at hkbd

/-- One Console event pending: the poll that services it, and the empty poll (R177). -/
theorem insideFor_drain_console {ev : Event} (hs : InPhase .interruptCheck s) (hq : s.queue = [ev])
    (hev : ev.name = .console) : InsideFor 2 s (.next (drain s)) := by
  have hne : s.queue ≠ [] := by simp [hq]
  have hnil : (interruptCheck s).queue = [] := interruptCheck_queue_of_console hq hev
  have hdrain : drain s = drain (interruptCheck s) := by
    rw [drain_of_queue_nil hnil, drain, hq, List.length_singleton, drainFor, if_neg hne, drainFor, if_pos hnil,
      interruptCheck_of_queue_nil hnil]
  have hnext : InPhase .interruptCheck (interruptCheck s) :=
    ⟨(interruptCheck_halted s).trans hs.1, (interruptCheck_step_of_ne hne).trans hs.2⟩
  rw [hdrain]
  exact .head hs (by decide) (tick_interruptCheck hs) (insideFor_drain hnext hnil)

/-- The last pulse before the drain loop, and the empty poll. -/
theorem insideFor_finish (hs : InPhase p s) (hp : p ≠ .fetch) (h : tick s = .next t) (ht : InPhase .interruptCheck t)
    (hq : t.queue = []) : InsideFor 2 s (finish (.next t)) :=
  .head hs hp h (insideFor_drain ht hq)

theorem insideFor_finish_writeBack (hs : InPhase .writeBack s) (hq : s.queue = []) (hh : s.hob.isSome = s.lob.isSome) :
    InsideFor 2 s (finish (writeBack s)) := by
  obtain ⟨m, hm⟩ := writeBack_of_halves hh
  rw [hm]
  exact insideFor_finish hs (by decide) ((tick_writeBack hs).trans hm) ⟨hs.1, rfl⟩ hq

/-! ## From execute-1 on -/

/-- An execute-1 that reads its memory operand and goes on by `f`: the access does not stop, clears the halves, and keeps
the clock, the opcode and the queue. -/
theorem insideFor_of_operandRead {op : Operation} {w : Word} {f : State → State} {k : State → Result}
    (hr : s.halted = false)
    (hexec : execute1 (decodedAddress op w s) = andThen (auRead (decodedAddress op w s)) fun t => .next (f t))
    (h : ∀ t, t.halted = false → t.ir = opcode op → t.queue = s.queue → t.hob.isSome = t.lob.isSome →
      InsideFor n (f t) (k (f t))) :
    InsideFor (n + 1) (decodedAddress op w s)
      (andThen (andThen (auRead (decodedAddress op w s)) fun t => .next (f t)) k) := by
  have hs : InPhase .execute1 (decodedAddress op w s) := ⟨hr, rfl⟩
  have htick := tick_execute1 hs
  rw [hexec, auRead_decodedAddress] at htick
  rw [auRead_decodedAddress]
  exact .head hs (by decide) htick (h _ hr rfl rfl rfl)

/-- A system call whose first execute-1 pulse ends it. -/
theorem sysLoop_of_first_pulse {m : Nat} (hm : 0 < m) (h : sysExecute1 s = .next t) (ht : t.step = .interruptCheck) :
    sysLoop m s = .next (drain t) := by
  obtain ⟨m, rfl⟩ := Nat.exists_eq_succ_of_ne_zero hm.ne'
  rw [sysLoop, h, andThen_next, if_neg (by simp [ht])]

/-- The pulses of a system call that is no string call, from execute-1 on: a byte to output is one more event to service
(R151, R154). -/
theorem insideFor_execSys (hr : s.halted = false) (hq : s.queue = []) (h2 : s.x ≠ 2#8) (h3 : s.x ≠ 3#8) :
    InsideFor ((if s.x = 1#8 then 2 else 1) + 1) (decodedNone .sys s) (execSys s) := by
  have hs : InPhase .execute1 (decodedNone .sys s) := ⟨hr, rfl⟩
  have htick : tick (decodedNone .sys s) = sysExecute1 (decodedNone .sys s) := tick_sysExecute1 hs rfl
  by_cases h1 : s.x = 1#8
  · have hexec : sysExecute1 (decodedNone .sys s) = .next (sysOutputByte (decodedNone .sys s)) := if_pos h1
    rw [execSys, sysLoop_of_first_pulse (by decide) hexec rfl, if_pos h1]
    have hpost : (sysOutputByte (decodedNone .sys s)).queue = [consoleEvent] := by
      change sortByPriority (s.queue ++ [consoleEvent]) = [consoleEvent]
      rw [hq]
      rfl
    exact .head hs (by decide) (htick.trans hexec) (insideFor_drain_console ⟨hr, rfl⟩ hpost rfl)
  · have hexec : sysExecute1 (decodedNone .sys s) = .next (raiseInvalidOpcode (decodedNone .sys s)) :=
      (if_neg h1).trans ((if_neg h2).trans (if_neg h3))
    rw [execSys, sysLoop_of_first_pulse (by decide) hexec rfl, if_neg h1]
    exact insideFor_finish hs (by decide) (htick.trans hexec) ⟨hr, rfl⟩ hq

/-- The pulses of an instruction from execute-1 on. The fetch and the operand bytes take a pulse each, and an
instruction without operand is decoded in the first pulse of execute-1 (R95). -/
theorem exec_insideFor (i : Instr) (hr : s.halted = false) (hq : s.queue = [])
    (hsys : i.operation = .sys → s.x ≠ 2#8 ∧ s.x ≠ 3#8) (hw : i.wellFormed s.x = true) :
    ∃ n, pulseCount s.x i.operation = n + (encode i).length + 1 ∧ InsideFor (n + 1) (decodedInstr i s) (exec i s) := by
  have hs : InPhase .execute1 (decodedInstr i s) := decodedInstr_inPhase i hr
  have hne : Phase.execute1 ≠ .fetch := by decide
  have hexecute := tick_execute1 hs
  cases i with
  | ldaImm | ldxImm | ldyImm | txa | tya | tax | tay | nop | bne =>
    exact ⟨1, rfl, insideFor_finish hs hne hexecute ⟨hr, rfl⟩ hq⟩
  | ldaAbs =>
    rw [exec, execLdaAbs, finish]
    exact ⟨1, rfl, insideFor_of_operandRead hr rfl fun t ht _ hqt _ => insideFor_drain ⟨ht, rfl⟩ (hqt.trans hq)⟩
  | ldxAbs =>
    rw [exec, execLdxAbs, finish]
    exact ⟨1, rfl, insideFor_of_operandRead hr rfl fun t ht _ hqt _ => insideFor_drain ⟨ht, rfl⟩ (hqt.trans hq)⟩
  | ldyAbs =>
    rw [exec, execLdyAbs, finish]
    exact ⟨1, rfl, insideFor_of_operandRead hr rfl fun t ht _ hqt _ => insideFor_drain ⟨ht, rfl⟩ (hqt.trans hq)⟩
  | sta => exact ⟨2, rfl, .head hs hne hexecute (insideFor_finish_writeBack ⟨hr, rfl⟩ hq rfl)⟩
  | adc =>
    rw [exec, execAdc, finish, andThen_assoc]
    exact ⟨2, rfl, insideFor_of_operandRead hr rfl fun t ht hir hqt _ =>
      insideFor_finish (p := .execute2) ⟨ht, rfl⟩ (by decide) (tick_adcExecute2 ⟨ht, rfl⟩ hir) ⟨ht, rfl⟩ (hqt.trans hq)⟩
  | cpx =>
    rw [exec, execCpx, finish, andThen_assoc]
    exact ⟨2, rfl, insideFor_of_operandRead hr rfl fun t ht hir hqt _ =>
      insideFor_finish (p := .execute2) ⟨ht, rfl⟩ (by decide) (tick_cpxExecute2 ⟨ht, rfl⟩ hir) ⟨ht, rfl⟩ (hqt.trans hq)⟩
  | inc =>
    rw [exec, execInc, finish, andThen_assoc]
    exact ⟨3, rfl, insideFor_of_operandRead hr rfl fun t ht hir hqt hh =>
      .head (p := .execute2) ⟨ht, rfl⟩ (by decide) (tick_incExecute2 ⟨ht, rfl⟩ hir)
        (insideFor_finish_writeBack ⟨ht, rfl⟩ (hqt.trans hq) hh)⟩
  | brk => exact ⟨0, rfl, .last hs hne hexecute⟩
  | sys =>
    obtain ⟨h2, h3⟩ := hsys rfl
    refine ⟨if s.x = 1#8 then 2 else 1, ?_, insideFor_execSys hr hq h2 h3⟩
    change (if s.x = 1#8 then 4 else 3) = _
    split_ifs <;> rfl
  | sysAddr =>
    have hx : s.x = 3#8 := by simpa [Instr.wellFormed] using hw
    exact absurd hx (hsys rfl).2

/-! ## Before execute-1 -/

/-- An instruction without operand is decoded in the first pulse of its execute-1 (R95). -/
theorem insideFor_of_decodedNone {op : Operation} (hr : s.halted = false) (hc : operationClass s.x op = .noOperand)
    (h : InsideFor (n + 1) (decodedNone op s) r) : InsideFor (n + 1) (fetchByte (opcode op) s) r := by
  have hs : InPhase .decode1 (fetchByte (opcode op) s) := ⟨hr, rfl⟩
  have hdecode : tick (fetchByte (opcode op) s) = execute1 (decodedNone op s) :=
    tick_decode1_none hs ((classify_opcode op s.x).trans hc)
  have hexecute : tick (decodedNone op s) = execute1 (decodedNone op s) := tick_execute1 ⟨hr, rfl⟩
  exact .of_tick_eq hs (by decide) (hdecode.trans hexecute.symm) h

/-- Decode-1 of one operand byte (R94). -/
theorem insideFor_of_decodedConstant {op : Operation} {c : Byte} (hr : s.halted = false)
    (hb1 : s.cell (s.pc + 1#16) = c) (hc : operationClass s.x op = .constantOperand)
    (h : InsideFor n (decodedConstant op c s) r) : InsideFor (n + 1) (fetchByte (opcode op) s) r :=
  have hs : InPhase .decode1 (fetchByte (opcode op) s) := ⟨hr, rfl⟩
  .head hs (by decide) (tick_decode1_constant hs ((classify_opcode op s.x).trans hc) hb1) h

/-- Decode-1 and decode-2 of the two address bytes (R96, R98). -/
theorem insideFor_of_decodedAddress {op : Operation} {w : Word} (hr : s.halted = false)
    (hb1 : s.cell (s.pc + 1#16) = loByte w) (hb2 : s.cell (s.pc + 2#16) = hiByte w)
    (hc : operationClass s.x op = .twoByteAddress) (h : InsideFor n (decodedAddress op w s) r) :
    InsideFor (n + 2) (fetchByte (opcode op) s) r := by
  have hs1 : InPhase .decode1 (fetchByte (opcode op) s) := ⟨hr, rfl⟩
  have hs2 : InPhase .decode2 (decode1AddressByte (loByte w) (fetchByte (opcode op) s)) := ⟨hr, rfl⟩
  rw [← pc_add_two] at hb2
  exact .head hs1 (by decide) (tick_decode1_address hs1 ((classify_opcode op s.x).trans hc) hb1)
    (.head hs2 (by decide) (tick_decode2 hs2 hb2) h)

/-- The pulses between fetch and execute-1, for the instruction whose bytes stand at `PC`: one for each operand byte. -/
theorem insideFor_of_decodedInstr {i : Instr} {rest : List Byte} (hr : s.halted = false)
    (hw : i.wellFormed s.x = true) (hbytes : encode i ++ rest = instructionBytes s)
    (h : InsideFor (n + 1) (decodedInstr i s) r) :
    InsideFor (n + (encode i).length) (fetchByte (s.cell s.pc) s) r := by
  obtain ⟨hb, htail⟩ := List.cons.inj hbytes.symm
  rw [hb]
  cases i with
  | ldaImm | ldxImm | ldyImm | bne =>
    obtain ⟨hb1, _⟩ := List.cons.inj htail
    exact insideFor_of_decodedConstant hr hb1 rfl h
  | ldaAbs | sta | adc | ldxAbs | ldyAbs | cpx | inc =>
    obtain ⟨hb1, htail⟩ := List.cons.inj htail
    obtain ⟨hb2, _⟩ := List.cons.inj htail
    exact insideFor_of_decodedAddress hr hb1 hb2 rfl h
  | txa | tya | tax | tay | nop | brk => exact insideFor_of_decodedNone hr rfl h
  | sys =>
    have hx : s.x ≠ 3#8 := by simpa [Instr.wellFormed] using hw
    exact insideFor_of_decodedNone hr (if_neg hx) h
  | sysAddr =>
    have hx : s.x = 3#8 := by simpa [Instr.wellFormed] using hw
    obtain ⟨hb1, htail⟩ := List.cons.inj htail
    obtain ⟨hb2, _⟩ := List.cons.inj htail
    exact insideFor_of_decodedAddress hr hb1 hb2 (if_pos hx) h

/-- The bytes at `PC` decode when the first of them is an opcode. -/
theorem decode_instructionBytes {op : Operation} (hop : operationOf (s.cell s.pc) = some op) :
    ∃ i rest, decode s.x (instructionBytes s) = .ok (i, rest) ∧ i.operation = op := by
  obtain ⟨i, rest, hd⟩ := decodeOperands_two_bytes s.x op (s.cell (s.pc + 1#16)) (s.cell (s.pc + 2#16))
  exact ⟨i, rest, by rw [instructionBytes, decode, hop, ← hd], (decodeOperands_eq_ok hd).1⟩

/-- An invalid opcode: decode-1, and the empty poll (R97, R144). -/
theorem runInvalidOpcode_insideFor (hr : s.halted = false) (hq : s.queue = [])
    (hop : operationOf (s.cell s.pc) = none) :
    InsideFor 2 (fetchByte (s.cell s.pc) s) (runInvalidOpcode (s.cell s.pc) s) :=
  have hs : InPhase .decode1 (fetchByte (s.cell s.pc) s) := ⟨hr, rfl⟩
  insideFor_finish hs (by decide) (tick_decode1_invalid hs (classify_of_operationOf_none s.x hop)) ⟨hr, rfl⟩ hq

end

/-- Settles O51: the pulse of fetch, those of the operand bytes and those from execute-1 on, added up. -/
theorem pulseCounts : Obligations.PulseCounts := by
  intro s hs hq
  refine ⟨fun op hop hsys => ?_, fun hop => ?_⟩
  · obtain ⟨i, rest, hd, rfl⟩ := decode_instructionBytes hop
    obtain ⟨hbytes, hw⟩ := decode_eq_ok hd
    obtain ⟨n, hn, hexec⟩ := exec_insideFor i hs.1 hq hsys hw
    rw [hn, step_of_decode hs hd]
    exact (insideFor_of_decodedInstr hs.1 hw hbytes hexec).after_fetch hs
  · rw [step_of_invalid hs hop]
    exact (runInvalidOpcode_insideFor hs.1 hq hop).after_fetch hs

/-- Settles O50: the four ticks of `pulseCounts` are the step, and the step is the meaning of `LDA #v` with the empty
poll after it. -/
theorem loadImmediateTakesFourTicks : Obligations.LoadImmediateTakesFourTicks := by
  intro s v hs hq hopcode hoperand
  have hop : operationOf (s.cell s.pc) = some .ldaImm := by rw [State.cell, hopcode, operationOf_opcode]
  have hfour : ticks 4 s = step s := (((pulseCounts s hs hq).1 .ldaImm hop nofun).1 :)
  have hd : decode s.x (instructionBytes s) = .ok (.ldaImm v, [s.cell (s.pc + 2#16)]) := by
    rw [instructionBytes, decode, hop, ← hoperand]
    rfl
  have hstep : step s = .next (drain (ldaImmExecute1 (decodedConstant .ldaImm v s))) := step_of_decode hs hd
  refine ⟨_, hfour.trans hstep, ?_, ?_, ?_, hstep⟩
  · rw [drain_a]
    rfl
  · rw [drain_pc]
    exact pc_add_two s.pc
  · rw [drain_of_queue_nil (s := ldaImmExecute1 (decodedConstant .ldaImm v s)) hq]

end Sys2Proof.Machine
end

section
/-! SUPPORT. The string calls that find their address, pulse after pulse, and the answer of every whole instruction. -/

namespace Sys2Proof.Machine

/-- A system call finds the address it may need: with `X = 3` both halves are set (R63, R153). -/
def CallAddressSet (s : State) : Prop := s.x = 3#8 → s.hob.isSome = true ∧ s.lob.isSome = true

section
variable {s t : State}

theorem CallAddressSet.sysExecute1_answers (h : CallAddressSet s) : ∃ t, sysExecute1 s = .next t := by
  unfold sysExecute1
  split_ifs with h1 h2 h3
  · exact ⟨_, rfl⟩
  · exact ⟨_, rfl⟩
  · obtain ⟨hhob, hlob⟩ := h h3
    obtain ⟨hi, hhi⟩ := Option.isSome_iff_exists.mp hhob
    obtain ⟨lo, hlo⟩ := Option.isSome_iff_exists.mp hlob
    rw [composeAddress_of_set hhi hlo]
    exact ⟨_, rfl⟩
  · exact ⟨_, rfl⟩

/-- No execute-1 pulse of a system call writes `X` or a half (R150, R206). -/
theorem sysExecute1_operand (h : sysExecute1 s = .next t) : t.x = s.x ∧ t.hob = s.hob ∧ t.lob = s.lob := by
  rcases sysExecute1_cases h with ⟨_, rfl⟩ | ⟨_, start, rfl⟩ | ⟨_, _, _, rfl⟩
  · exact ⟨rfl, rfl, rfl⟩
  · rcases sysStringPulse_cases start s with ⟨_, hend⟩ | ⟨_, _, _, hgoOn⟩
    · rw [hend]
      exact ⟨rfl, rfl, rfl⟩
    · rw [hgoOn]
      exact ⟨rfl, rfl, rfl⟩
  · exact ⟨rfl, rfl, rfl⟩

theorem CallAddressSet.of_sysExecute1 (h : CallAddressSet s) (ht : sysExecute1 s = .next t) : CallAddressSet t := by
  obtain ⟨hx, hhob, hlob⟩ := sysExecute1_operand ht
  rwa [CallAddressSet, hx, hhob, hlob]

/-- Every number of pulses of such a call goes on, whether one of them ends the call or not. -/
theorem CallAddressSet.sysLoop_answers (n : Nat) {s : State} (h : CallAddressSet s) : ∃ t, sysLoop n s = .next t := by
  induction n generalizing s with
  | zero => exact ⟨s, rfl⟩
  | succ n ih =>
    obtain ⟨t, ht⟩ := h.sysExecute1_answers
    rw [sysLoop, ht, andThen_next]
    split
    case isTrue => exact ih (h.of_sysExecute1 ht)
    case isFalse => exact ⟨drain t, rfl⟩

end

/-- Settles O29: what stores nothing and what stores ends in its drain loop, BRK at the halt; a well-formed system call
has the address it needs, in the first pulse and in every pulse after it. -/
theorem everyWellFormedInstructionAnswersANextState : Obligations.EveryWellFormedInstructionAnswersANextState := by
  intro i s hw
  cases i with
  | sta w => exact ⟨_, exec_sta w s⟩
  | inc w => exact ⟨_, exec_inc w s⟩
  | brk => exact ⟨_, rfl⟩
  | sys =>
    have hx : s.x ≠ 3#8 := by simpa [Instr.wellFormed] using hw
    have hset : CallAddressSet (decodedNone .sys s) := fun h3 => absurd h3 hx
    exact hset.sysLoop_answers sysPulses
  | sysAddr w =>
    have hset : CallAddressSet (decodedAddress .sys w s) := fun _ => ⟨rfl, rfl⟩
    exact hset.sysLoop_answers sysPulses
  | _ =>
    refine (exec_storesNothing s ?_).imp' drain fun _ ⟨hu, _⟩ => hu
    simp [Instr.operation]

end Sys2Proof.Machine
end

section
/-! SUPPORT. The loads, the store and the register transfers: the tick of an execute-1 by the opcode in `IR`, and the
whole instructions. -/

namespace Sys2Proof.Machine

section
variable {s : State} {op : Operation}

/-- Execute-1 is the arm of the operation whose opcode is in `IR` (R99). -/
theorem execute1_of_ir {arm : State → Result} (hir : s.ir = opcode op)
    (harm : execute1 { s with ir := opcode op } = arm { s with ir := opcode op }) : execute1 s = arm s := by
  rwa [← hir] at harm

/-- A tick of execute-1 whose arm always goes on. -/
theorem tick_execute1_of_ir (arm : State → State) (h : InPhase .execute1 s) (hir : s.ir = opcode op)
    (harm : execute1 { s with ir := opcode op } = .next (arm { s with ir := opcode op })) :
    tick s = .next (arm s) :=
  (tick_execute1 h).trans (execute1_of_ir (arm := fun u => .next (arm u)) hir harm)

/-- A tick of execute-1 whose arm reads the memory operand, both halves being set, and goes on by `f` (R48). -/
theorem tick_operandRead {f : State → State} {hi lo : Byte} (h : InPhase .execute1 s) (hir : s.ir = opcode op)
    (hh : s.hob = some hi) (hl : s.lob = some lo)
    (harm : execute1 { s with ir := opcode op } =
      andThen (auRead { s with ir := opcode op }) fun u => .next (f u)) :
    tick s = .next (f { s with
      mar := composeWord hi lo, mdr := s.cells.read (composeWord hi lo).toNat, hob := none, lob := none }) := by
  rw [tick_execute1 h, execute1_of_ir (arm := fun v => andThen (auRead v) fun u => .next (f u)) hir harm, auRead,
    auAccess_set memCellRead hh hl]
  rfl

/-- An opcode without operand has one pulse for decode-1 and execute-1 (R95). -/
theorem tick_noOperand_of_ir (arm : State → State) (h : InPhase .decode1 s ∨ InPhase .execute1 s)
    (hir : s.ir = opcode op) (hc : operationClass s.x op = .noOperand)
    (harm : execute1 { decode1None s with ir := opcode op } = .next (arm { decode1None s with ir := opcode op })) :
    tick s = .next (arm (decode1None s)) := by
  have hexecute : execute1 (decode1None s) = .next (arm (decode1None s)) :=
    execute1_of_ir (arm := fun u => .next (arm u)) hir harm
  rcases h with h | h
  · have hclass : classify s.ir s.x = .noOperand := by rw [hir, classify_opcode, hc]
    exact (tick_decode1_none h hclass).trans hexecute
  · rw [tick_execute1 h, ← hexecute, decode1None_of_execute1 h.2]

end

/-! The loads of an immediate, from fetch to the drain loop. -/

theorem exec_ldaImm (imm : Byte) (s : State) :
    exec (.ldaImm imm) s = .next (drain { s with
      ir := opcode .ldaImm, mar := s.pc + 1#16, mdr := imm, a := imm, pc := s.pc + 2#16, tempStore := imm,
      step := .interruptCheck }) := by
  rw [exec, execLdaImm, decodedConstant_eq]
  rfl

theorem exec_ldxImm (imm : Byte) (s : State) :
    exec (.ldxImm imm) s = .next (drain { s with
      ir := opcode .ldxImm, mar := s.pc + 1#16, mdr := imm, x := imm, pc := s.pc + 2#16, tempStore := imm,
      step := .interruptCheck }) := by
  rw [exec, execLdxImm, decodedConstant_eq]
  rfl

theorem exec_ldyImm (imm : Byte) (s : State) :
    exec (.ldyImm imm) s = .next (drain { s with
      ir := opcode .ldyImm, mar := s.pc + 1#16, mdr := imm, y := imm, pc := s.pc + 2#16, tempStore := imm,
      step := .interruptCheck }) := by
  rw [exec, execLdyImm, decodedConstant_eq]
  rfl

/-- Settles O13: the arms of execute-1, and what decode-1 leaves for them in `tempStore`. -/
theorem loadImmediate : Obligations.LoadImmediate := fun imm s =>
  ⟨rfl, rfl, rfl,
    fun h hir => tick_execute1_of_ir ldaImmExecute1 h hir rfl,
    fun h hir => tick_execute1_of_ir ldxImmExecute1 h hir rfl,
    fun h hir => tick_execute1_of_ir ldyImmExecute1 h hir rfl,
    exec_ldaImm imm s, exec_ldxImm imm s, exec_ldyImm imm s⟩

/-- Settles O14: the register-mediated read at the composed address, which for a decoded instruction is its operand. -/
theorem loadAbsolute : Obligations.LoadAbsolute := fun addr s =>
  ⟨rfl, rfl, rfl,
    fun _ _ h hh hl =>
      ⟨fun hir => tick_operandRead h hir hh hl rfl,
        fun hir => tick_operandRead h hir hh hl rfl,
        fun hir => tick_operandRead h hir hh hl rfl⟩,
    exec_ldaAbs addr s, exec_ldxAbs addr s, exec_ldyAbs addr s⟩

/-- Settles O15: decode-1 runs execute-1 in its own pulse, and no operand byte follows the opcode. -/
theorem registerTransfer : Obligations.RegisterTransfer := fun _ =>
  ⟨rfl, rfl, rfl, rfl,
    fun h =>
      ⟨fun hir => tick_noOperand_of_ir txaExecute1 h hir rfl rfl,
        fun hir => tick_noOperand_of_ir tyaExecute1 h hir rfl rfl,
        fun hir => tick_noOperand_of_ir taxExecute1 h hir rfl rfl,
        fun hir => tick_noOperand_of_ir tayExecute1 h hir rfl rfl⟩,
    rfl, rfl, rfl, rfl⟩

/-- Settles O16: execute-1 defers the write, write-back stores to the operand's address, and the drain loop keeps the
cells. -/
theorem storeAccumulator : Obligations.StoreAccumulator := by
  intro addr s
  refine ⟨rfl, fun h hir => tick_execute1_of_ir staExecute1 h hir rfl, exec_sta addr s, fun hwf t h => ?_⟩
  cases (exec_sta addr s).symm.trans h
  rw [drain_cells]
  exact Memory.read_write_same s.a hwf

end Sys2Proof.Machine
end

section
/-! SUPPORT. Add, compare and increment-memory: what their whole instructions leave for the next fetch, in numbers. -/

namespace Sys2Proof.Machine

/-- ADC leaves the sum without its bit 8, and writes no flag (R130, R133). -/
theorem exec_adc_sum {addr : Word} {s t : State} (h : exec (.adc addr) s = .next t) :
    t.a.toNat = (s.a.toNat + (s.cells.read addr.toNat).toNat) % 256 ∧ t.zFlag = s.zFlag := by
  cases (exec_adc addr s).symm.trans h
  rw [drain_a, drain_zFlag]
  exact ⟨BitVec.toNat_add _ _, rfl⟩

/-- INC leaves the old byte plus 1, without its bit 8, in the cell and in `A`, and writes no flag (R132, R204). -/
theorem exec_inc_sum {addr : Word} {s t : State} (hwf : s.cells.wf = true) (h : exec (.inc addr) s = .next t) :
    (t.cells.read addr.toNat).toNat = ((s.cells.read addr.toNat).toNat + 1) % 256 ∧
      t.a = t.cells.read addr.toNat ∧ t.zFlag = s.zFlag := by
  cases (exec_inc addr s).symm.trans h
  rw [drain_a, drain_cells, drain_zFlag, Memory.read_write_same _ hwf]
  exact ⟨BitVec.toNat_add _ 1#8, rfl, rfl⟩

/-- Settles O17: execute-1 is the register-mediated read into `tempStore`, and the sum is that of two 8-bit words. -/
theorem addWithoutCarry : Obligations.AddWithoutCarry := fun addr s =>
  ⟨rfl, fun _ _ h hir hh hl => tick_operandRead h hir hh hl rfl, tick_adcExecute2, exec_adc addr s,
    fun _ => exec_adc_sum⟩

/-- Settles O18: execute-1 is the register-mediated read into `tempStore`, and the flag is `compareFlag` of it and `X`. -/
theorem compareWithX : Obligations.CompareWithX := fun addr s =>
  ⟨rfl, fun _ _ h hir hh hl => tick_operandRead h hir hh hl rfl, tick_cpxExecute2, exec_cpx addr s⟩

/-- Settles O19: execute-1 is the register-mediated read into `A`, and write-back stores to the address still in
`MAR`. -/
theorem incrementMemory : Obligations.IncrementMemory := fun addr s =>
  ⟨rfl, fun _ _ h hir hh hl => tick_operandRead h hir hh hl rfl, tick_incExecute2, exec_inc addr s,
    fun hwf _ => exec_inc_sum hwf⟩

end Sys2Proof.Machine
end

section
/-! SUPPORT. Branch, no-op, halt and the invalid opcode: the branch target as a number, and the whole instructions. -/

namespace Sys2Proof.Machine

section
variable {pc : Word} {rel : Byte}

/-- The widened byte is the byte itself below `0x80`, and the byte minus 256 from there on (R6). -/
theorem sext16_toNat (b : Byte) : (sext16 b).toNat = b.toNat + if 0x80 ≤ b.toNat then 65536 - 256 else 0 := by
  simp [sext16, BitVec.toNat_signExtend, BitVec.msb_eq_decide, Nat.mod_eq_of_lt (show b.toNat < 65536 by omega)]

/-- An offset from `0x00` to `0x7F` goes forward, modulo 65,536 (R140, D6). -/
theorem branchTarget_toNat_forward (h : rel.toNat ≤ 0x7F) :
    (branchTarget pc rel).toNat = (pc.toNat + rel.toNat) % 65536 := by
  rw [branchTarget, BitVec.toNat_add, sext16_toNat, if_neg (by omega), Nat.add_zero]

/-- An offset from `0x80` to `0xFF` goes back by 256 minus it, modulo 65,536 (R140). -/
theorem branchTarget_toNat_backward (h : 0x80 ≤ rel.toNat) :
    (branchTarget pc rel).toNat = (pc.toNat + rel.toNat + 65536 - 256) % 65536 := by
  rw [branchTarget, BitVec.toNat_add, sext16_toNat, if_pos h]
  omega

end

theorem bneExecute1_pc_of_clear {s : State} (hz : s.zFlag = false) : (bneExecute1 s).pc = branchTarget s.pc s.tempStore :=
  if_neg (by simp [hz])

/-- Where BNE goes on (R140): the three clauses, by the flag and by the sign of the offset. -/
theorem bneExecute1_pc (s : State) :
    (s.zFlag = true → (bneExecute1 s).pc = s.pc) ∧
    (s.zFlag = false → s.tempStore.toNat ≤ 0x7F →
      (bneExecute1 s).pc.toNat = (s.pc.toNat + s.tempStore.toNat) % 65536) ∧
    (s.zFlag = false → 0x80 ≤ s.tempStore.toNat →
      (bneExecute1 s).pc.toNat = (s.pc.toNat + s.tempStore.toNat + 65536 - 256) % 65536) :=
  ⟨fun hz => if_pos hz,
    fun hz h => by rw [bneExecute1_pc_of_clear hz, branchTarget_toNat_forward h],
    fun hz h => by rw [bneExecute1_pc_of_clear hz, branchTarget_toNat_backward h]⟩

/-- A byte of class `invalid` is the opcode of no operation (R76, R78). -/
theorem operationOf_of_invalid {b x : Byte} (h : classify b x = .invalid) : operationOf b = none :=
  operationOf_eq_none_iff.mpr (classify_eq_invalid_iff.mp h)

/-- BNE from its fetch to its drain loop: execute-1 begins with the offset in `tempStore` and `PC` past it. -/
theorem exec_bne (rel : Byte) (s : State) :
    exec (.bne rel) s = .next (drain { s with
      ir := opcode .bne, mar := s.pc + 1#16, mdr := rel, pc := (bneExecute1 (decodedConstant .bne rel s)).pc,
      tempStore := rel, step := .interruptCheck }) := rfl

/-- Settles O20: both the pulse and the whole instruction go where `bneExecute1` puts `PC`. -/
theorem branchIfZeroFlagClear : Obligations.BranchIfZeroFlagClear := by
  intro rel s
  obtain ⟨hset, hforward, hbackward⟩ := bneExecute1_pc (decodedConstant .bne rel s)
  have hpc : (decodedConstant .bne rel s).pc.toNat = (s.pc.toNat + 2) % 65536 := by
    rw [decodedConstant_eq]
    exact BitVec.toNat_add s.pc 2#16
  refine ⟨rfl, fun h hir => ⟨_, tick_execute1_of_ir bneExecute1 h hir rfl, bneExecute1_pc s⟩,
    _, exec_bne rel s, fun hz => by rw [hset hz, hpc], fun hz h => ?_, fun hz h => ?_⟩
  · rw [hforward hz h, hpc]
    exact Nat.mod_add_mod _ _ _
  · rw [hbackward hz h, hpc, decodedConstant_eq]
    dsimp only
    omega

/-- Settles O21: decode-1 runs execute-1 in its own pulse, and only the fetch has written anything. -/
theorem noOperation : Obligations.NoOperation := fun _ =>
  ⟨rfl, fun h hir => tick_noOperand_of_ir nopExecute1 h hir rfl rfl, rfl⟩

/-- Settles O22: the halt is execute-1's only effect, so decode-1's step 3 stays and no drain loop follows (R143, R208). -/
theorem breakHaltsTheClock : Obligations.BreakHaltsTheClock := fun _ =>
  ⟨rfl, fun h hir => tick_noOperand_of_ir brkExecute1 h hir rfl rfl, rfl⟩

/-- Settles O48: the decoder fails on an invalid opcode, and its byte alone is fetched. -/
theorem invalidOpcodeIsSkippedAsOneByte : Obligations.InvalidOpcodeIsSkippedAsOneByte := fun _ h hc =>
  step_of_invalid h (operationOf_of_invalid hc)

end Sys2Proof.Machine
end

section
/-! SUPPORT. The pulses of a system call: one per number in `X`, and the read of one byte of a string. -/

namespace Sys2Proof.Machine

section
variable {s : State} {start : Word} {b : Byte}

theorem sysExecute1_of_one (hx : s.x = 1#8) : sysExecute1 s = .next (sysOutputByte s) := if_pos hx

theorem sysExecute1_of_other (h1 : s.x ≠ 1#8) (h2 : s.x ≠ 2#8) (h3 : s.x ≠ 3#8) :
    sysExecute1 s = .next (raiseInvalidOpcode s) :=
  (if_neg h1).trans ((if_neg h2).trans (if_neg h3))

/-- The call outputs the string at `start`: number 2 the one in the page of `PC`, number 3 the one at the composed
address (R152, R153). -/
def StringCallAt (start : Word) (s : State) : Prop :=
  s.x = 2#8 ∧ pageAddress s.pc s.y = start ∨ s.x = 3#8 ∧ composeAddress s = some start

theorem sysExecute1_of_stringCallAt (h : StringCallAt start s) : sysExecute1 s = .next (sysStringPulse start s) := by
  rcases h with ⟨hx, rfl⟩ | ⟨hx, haddr⟩
  · simp [sysExecute1, hx]
  · simp [sysExecute1, hx, haddr]

/-! The byte at the console's cursor (R188): a NUL ends the string, any other byte lengthens it. -/

theorem consoleOutputString_of_nul (hb : b = s.cells.read (start + BitVec.ofNat 16 s.strOffset).toNat)
    (h0 : b = 0x00#8) :
    consoleOutputString start s = (true, { s with
      mar := start + BitVec.ofNat 16 s.strOffset, mdr := b, conBuf := s.conBuf ++ [.str s.strAccum],
      queue := sortByPriority (s.queue ++ [consoleEvent]), strAccum := [], strOffset := 0 }) := by
  subst hb
  exact if_pos h0

theorem consoleOutputString_of_ne (hb : b = s.cells.read (start + BitVec.ofNat 16 s.strOffset).toNat)
    (h0 : b ≠ 0x00#8) :
    consoleOutputString start s = (false, { s with
      mar := start + BitVec.ofNat 16 s.strOffset, mdr := b, strAccum := s.strAccum ++ [b],
      strOffset := s.strOffset + 1 }) := by
  subst hb
  exact if_neg h0

theorem sysStringPulse_of_nul (hb : b = s.cells.read (start + BitVec.ofNat 16 s.strOffset).toNat) (h0 : b = 0x00#8) :
    sysStringPulse start s = { s with
      mar := start + BitVec.ofNat 16 s.strOffset, mdr := b, conBuf := s.conBuf ++ [.str s.strAccum],
      queue := sortByPriority (s.queue ++ [consoleEvent]), strAccum := [], strOffset := 0,
      step := .interruptCheck } := by
  rw [sysStringPulse, consoleOutputString_of_nul hb h0]

theorem sysStringPulse_of_ne (hb : b = s.cells.read (start + BitVec.ofNat 16 s.strOffset).toNat) (h0 : b ≠ 0x00#8) :
    sysStringPulse start s = { s with
      mar := start + BitVec.ofNat 16 s.strOffset, mdr := b, strAccum := s.strAccum ++ [b],
      strOffset := s.strOffset + 1 } := by
  rw [sysStringPulse, consoleOutputString_of_ne hb h0]

end

end Sys2Proof.Machine
end

section
/-! SUPPORT. The string calls as whole instructions: the pulses up to the first NUL, one induction for both numbers. -/

namespace Sys2Proof.Machine

/-- The `n` bytes from the cursor `offset` of the string at `start`, addresses modulo 65,536. -/
def stringBytes (m : Memory) (start : Word) (offset n : Nat) : List Byte :=
  (List.range' offset n).map fun k => m.read (start + BitVec.ofNat 16 k).toNat

section
variable {s : State} {start : Word}

theorem stringBytes_succ (m : Memory) (start : Word) (offset n : Nat) :
    stringBytes m start offset (n + 1) =
      m.read (start + BitVec.ofNat 16 offset).toNat :: stringBytes m start (offset + 1) n := rfl

theorem stringBytes_zero_offset (m : Memory) (start : Word) (n : Nat) :
    stringBytes m start 0 n = (List.range n).map fun k => m.read (start + BitVec.ofNat 16 k).toNat := by
  rw [stringBytes, List.range_eq_range']

theorem nul_not_mem_stringBytes {m : Memory} {n : Nat}
    (h : ∀ k, k < n → m.read (start + BitVec.ofNat 16 k).toNat ≠ 0x00#8) : 0x00#8 ∉ stringBytes m start 0 n := by
  simpa [stringBytes_zero_offset] using h

/-- A string call whose first NUL is `n` bytes past the cursor takes `n` pulses in step 3 and one that ends it: the
bytes accumulated so far and those `n` are one unit of output (R155, R188). -/
theorem sysLoop_of_string {n m : Nat} {s : State} (hnm : n < m) (hcall : StringCallAt start s)
    (hstep : s.step = .execute1) (hbytes : 0x00#8 ∉ stringBytes s.cells start s.strOffset n)
    (hnul : s.cells.read (start + BitVec.ofNat 16 (s.strOffset + n)).toNat = 0x00#8) :
    sysLoop m s = .next (drain { s with
      mar := start + BitVec.ofNat 16 (s.strOffset + n), mdr := 0x00#8,
      conBuf := s.conBuf ++ [.str (s.strAccum ++ stringBytes s.cells start s.strOffset n)],
      queue := sortByPriority (s.queue ++ [consoleEvent]), strAccum := [], strOffset := 0,
      step := .interruptCheck }) := by
  induction n generalizing m s with
  | zero =>
    have hpulse := (sysExecute1_of_stringCallAt hcall).trans (congrArg _ (sysStringPulse_of_nul hnul.symm rfl))
    rw [sysLoop_of_first_pulse hnm hpulse rfl, stringBytes, List.range'_zero, List.map_nil, List.append_nil]
    rfl
  | succ n ih =>
    obtain ⟨m, rfl⟩ := Nat.exists_eq_succ_of_ne_zero (Nat.ne_zero_of_lt hnm)
    rw [stringBytes_succ, List.mem_cons, not_or] at hbytes
    obtain ⟨hb, hrest⟩ := hbytes
    have hend : s.strOffset + (n + 1) = s.strOffset + 1 + n := by omega
    rw [hend] at hnul ⊢
    rw [stringBytes_succ, List.append_cons s.strAccum]
    rw [sysLoop, sysExecute1_of_stringCallAt hcall, sysStringPulse_of_ne rfl (Ne.symm hb), andThen_next, if_pos hstep]
    exact ih (Nat.lt_of_succ_lt_succ hnm) hcall hstep hrest hnul

/-- The same for a call that begins with no string under way. -/
theorem sysLoop_of_new_string {n : Nat} {s : State} (hnew : NoStringUnderWay s) (hn : n < 65536)
    (hcall : StringCallAt start s) (hstep : s.step = .execute1)
    (hbytes : ∀ k, k < n → s.cells.read (start + BitVec.ofNat 16 k).toNat ≠ 0x00#8)
    (hnul : s.cells.read (start + BitVec.ofNat 16 n).toNat = 0x00#8) :
    sysLoop sysPulses s = .next (drain { s with
      mar := start + BitVec.ofNat 16 n, mdr := 0x00#8,
      conBuf := s.conBuf ++ [.str ((List.range n).map fun k => s.cells.read (start + BitVec.ofNat 16 k).toNat)],
      queue := sortByPriority (s.queue ++ [consoleEvent]), step := .interruptCheck }) := by
  obtain ⟨hoffset, haccum⟩ := hnew
  have hloop := sysLoop_of_string (m := sysPulses) hn hcall hstep
    (hoffset ▸ nul_not_mem_stringBytes hbytes) (by rwa [hoffset, Nat.zero_add])
  rw [hloop, hoffset, haccum, Nat.zero_add, List.nil_append, stringBytes_zero_offset]

end

/-- Settles O24: the pulse at the address in the page of `PC`, and the induction over the bytes before the NUL. -/
theorem systemCallOutputsThePageString : Obligations.SystemCallOutputsThePageString := by
  intro s start hx
  have h3 : s.x ≠ 3#8 := by simp [hx]
  refine ⟨fun b h hir hstart hb => ?_, fun n hnew hstart hn hbytes hnul => ?_⟩
  · have hcall : StringCallAt start (decode1None s) := .inl ⟨hx, hstart.symm⟩
    have htick : tick s = .next (sysStringPulse start (decode1None s)) :=
      tick_noOperand_of_ir (sysStringPulse start) h hir (if_neg h3) (sysExecute1_of_stringCallAt hcall)
    exact ⟨fun h0 => htick.trans (congrArg _ (sysStringPulse_of_nul hb h0)),
      fun h0 => htick.trans (congrArg _ (sysStringPulse_of_ne hb h0))⟩
  · have hcall : StringCallAt start (decodedNone .sys s) := .inl ⟨hx, hstart.symm⟩
    exact sysLoop_of_new_string hnew hn hcall rfl hbytes hnul

/-- Settles O25: the pulse at the composed address, and the induction over the bytes before the NUL; no pulse clears the
halves that decode has set. -/
theorem systemCallOutputsTheAddressedString : Obligations.SystemCallOutputsTheAddressedString := by
  intro s hx
  refine ⟨fun hi lo b start h hir hh hl hstart hb => ?_, fun addr n hnew hn hbytes hnul => ?_⟩
  · have hcall : StringCallAt start s := .inr ⟨hx, hstart ▸ composeAddress_of_set hh hl⟩
    have htick : tick s = .next (sysStringPulse start s) :=
      (tick_sysExecute1 h hir).trans (sysExecute1_of_stringCallAt hcall)
    exact ⟨fun h0 => htick.trans (congrArg _ (sysStringPulse_of_nul hb h0)),
      fun h0 => htick.trans (congrArg _ (sysStringPulse_of_ne hb h0))⟩
  · rw [exec, execSysAddr, decodedAddress_eq]
    refine sysLoop_of_new_string hnew hn (.inr ⟨hx, ?_⟩) rfl hbytes hnul
    exact (composeAddress_of_set rfl rfl).trans (congrArg some (composeWord_hi_lo addr))

end Sys2Proof.Machine
end

section
/-! SUPPORT. What every system call keeps (R150): the part of the state no pulse of it writes, and what its drain loop
can do with no event pending but its own. -/

namespace Sys2Proof.Machine

/-- `t` is `s` but for the fields an execute-1 pulse of SYS may write. -/
def CallFrame (s t : State) : Prop :=
  t = { s with
    mar := t.mar, mdr := t.mdr, conBuf := t.conBuf, queue := t.queue, strAccum := t.strAccum,
    strOffset := t.strOffset, step := t.step }

section
variable {s t u : State}

theorem CallFrame.trans (h : CallFrame s t) (h' : CallFrame t u) : CallFrame s u := by
  rw [CallFrame, h', h]

theorem CallFrame.kbdBuf (h : CallFrame s t) : t.kbdBuf = s.kbdBuf := (congrArg State.kbdBuf h :)

theorem CallFrame.diag (h : CallFrame s t) : t.diag = s.diag := (congrArg State.diag h :)

theorem sysStringPulse_callFrame (start : Word) (s : State) : CallFrame s (sysStringPulse start s) := by
  rcases sysStringPulse_cases start s with ⟨_, h⟩ | ⟨_, _, _, h⟩
  · rw [h]
    exact rfl
  · rw [h]
    exact rfl

theorem sysExecute1_callFrame (h : sysExecute1 s = .next t) : CallFrame s t := by
  rcases sysExecute1_cases h with ⟨_, rfl⟩ | ⟨_, start, rfl⟩ | ⟨_, _, _, rfl⟩
  · exact rfl
  · exact sysStringPulse_callFrame start s
  · exact rfl

/-- A pulse that posts the call's Console event is its last (R151, R152). -/
theorem sysExecute1_queue (h : sysExecute1 s = .next t) :
    t.queue = s.queue ∨ t.step = .interruptCheck ∧ t.queue = sortByPriority (s.queue ++ [consoleEvent]) := by
  rcases sysExecute1_cases h with ⟨_, rfl⟩ | ⟨_, start, rfl⟩ | ⟨_, _, _, rfl⟩
  · exact .inr ⟨rfl, rfl⟩
  · rcases sysStringPulse_cases start s with ⟨_, hend⟩ | ⟨_, _, _, hgoOn⟩
    · rw [hend]
      exact .inr ⟨rfl, rfl⟩
    · rw [hgoOn]
      exact .inl rfl
  · exact .inl rfl

/-- All that any number of pulses of a system call can do: post one Console event and drain the queue; drain it without
a post, where nothing is output; or stay inside an endless string with the queue as before (R150, R154, R155). -/
theorem sysLoop_cases {n : Nat} {s : State} (h : sysLoop n s = .next t) :
    ∃ u, CallFrame s u ∧
      (u.queue = s.queue ∧ (t = u ∨ t = drain u) ∨
        u.queue = sortByPriority (s.queue ++ [consoleEvent]) ∧ t = drain u) := by
  induction n generalizing s with
  | zero =>
    cases h
    exact ⟨t, rfl, .inl ⟨rfl, .inl rfl⟩⟩
  | succ n ih =>
    obtain ⟨v, hv, hrest⟩ := andThen_eq_next h
    have hframe : CallFrame s v := sysExecute1_callFrame hv
    have hqueue := sysExecute1_queue hv
    split at hrest
    case isTrue hstep =>
      have hkept : v.queue = s.queue := hqueue.resolve_right fun ⟨hend, _⟩ => by simp [hend] at hstep
      obtain ⟨u, hu, hcases⟩ := ih hrest
      exact ⟨u, hframe.trans hu, by rwa [hkept] at hcases⟩
    case isFalse =>
      cases hrest
      exact ⟨v, hframe, hqueue.imp (fun hq => ⟨hq, .inr rfl⟩) fun ⟨_, hq⟩ => ⟨hq, rfl⟩⟩

/-- The service of a lone Console event (R179): the oldest buffered unit, if there is one, is output. -/
theorem interruptCheck_of_queue_console (h : s.queue = [consoleEvent]) :
    interruptCheck s = { s with
      queue := [], conBuf := s.conBuf.tail, out := s.out ++ s.conBuf.take 1, mode := .interruptServicing } := by
  have hservice : interruptCheck s = serviceEvent consoleEvent { s with queue := [] } := by
    rw [interruptCheck, nextEvent, h]
    rfl
  rw [hservice]
  cases s.conBuf <;> simp [serviceEvent, consoleEvent, serviceConsole]

/-- The drain loop with a lone Console event: its service and the empty poll (R177). -/
theorem drain_of_queue_console (h : s.queue = [consoleEvent]) :
    drain s = { s with
      queue := [], conBuf := s.conBuf.tail, out := s.out ++ s.conBuf.take 1, mode := .normal, step := .fetch } := by
  have hne : s.queue ≠ [] := by simp [h]
  have hnil : (interruptCheck s).queue = [] := interruptCheck_queue_of_console h rfl
  rw [drain, h, List.length_singleton, drainFor, if_neg hne, drainFor, if_pos hnil, interruptCheck_of_queue_nil hnil,
    interruptCheck_of_queue_console h]

/-- With no event pending before it, a system call ends with none pending, and leaves the keyboard and `diag` alone. -/
theorem sysLoop_devices {n : Nat} (h : sysLoop n s = .next t) (hq : s.queue = []) :
    t.queue = [] ∧ t.kbdBuf = s.kbdBuf ∧ t.diag = s.diag := by
  obtain ⟨u, hu, ⟨hqueue, rfl | rfl⟩ | ⟨hqueue, rfl⟩⟩ := sysLoop_cases h
  · exact ⟨hqueue.trans hq, hu.kbdBuf, hu.diag⟩
  · rw [drain_of_queue_nil (hqueue.trans hq)]
    exact ⟨hqueue.trans hq, hu.kbdBuf, hu.diag⟩
  · rw [hq] at hqueue
    rw [drain_of_queue_console hqueue]
    exact ⟨rfl, hu.kbdBuf, hu.diag⟩

/-- The registers, the cells, the halves and the clock through a whole system call, from execute-1 to the end of its
drain loop (R150, R153). -/
theorem sysLoop_frame {n : Nat} (h : sysLoop n s = .next t) :
    t.cells = s.cells ∧ t.a = s.a ∧ t.x = s.x ∧ t.y = s.y ∧ t.zFlag = s.zFlag ∧ t.tempStore = s.tempStore ∧
    t.pc = s.pc ∧ t.hob = s.hob ∧ t.lob = s.lob ∧ t.halted = s.halted ∧ t.sources = s.sources := by
  obtain ⟨u, hu, hcases⟩ := sysLoop_cases h
  have ht : t = u ∨ t = drain u := hcases.elim (fun ⟨_, ht⟩ => ht) fun ⟨_, ht⟩ => .inr ht
  rcases ht with rfl | rfl
  · rw [hu]
    simp
  · rw [hu]
    simp

end

/-- Settles O32: decode sets `PC` and, for an operand, the halves; the pulses and the drain loop keep the rest. -/
theorem frameOfTheSystemCall : Obligations.FrameOfTheSystemCall := by
  intro i s t hop _ h
  cases i with
  | sys =>
    have hdevices := sysLoop_devices h
    obtain ⟨hcells, ha, hx, hy, hz, htemp, hpc, hhob, hlob, hhalted, hsources⟩ := sysLoop_frame h
    exact ⟨fun _ => by rw [hcells]; rfl, ha, hx, hy, hz, htemp, hpc, fun _ => ⟨hhob, hlob⟩, nofun, hhalted, hsources,
      hdevices⟩
  | sysAddr addr =>
    rw [exec, execSysAddr, decodedAddress_eq] at h
    have hdevices := sysLoop_devices h
    obtain ⟨hcells, ha, hx, hy, hz, htemp, hpc, hhob, hlob, hhalted, hsources⟩ := sysLoop_frame h
    refine ⟨fun _ => by rw [hcells], ha, hx, hy, hz, htemp, hpc, nofun, fun _ heq => ?_, hhalted, hsources, hdevices⟩
    cases heq
    exact ⟨hhob, hlob⟩
  | _ => cases hop

end Sys2Proof.Machine
end

section
/-! SUPPORT. The system calls of one pulse: the byte in `Y`, and the numbers that have no row (R151, R154). -/

namespace Sys2Proof.Machine

/-- The call with `X = 1` from its fetch to its drain loop (R151). -/
theorem exec_sys_of_one {s : State} (hx : s.x = 1#8) :
    exec .sys s = .next (drain { s with
      ir := opcode .sys, mar := s.pc, mdr := opcode .sys, pc := s.pc + 1#16, conBuf := s.conBuf ++ [.byte s.y],
      queue := sortByPriority (s.queue ++ [consoleEvent]), step := .interruptCheck }) :=
  sysLoop_of_first_pulse (by decide) (sysExecute1_of_one (s := decodedNone .sys s) hx) rfl

/-- Settles O23: the pulse hands the byte to the console, and the drain loop outputs it when nothing is before it. -/
theorem systemCallOutputsTheByteInY : Obligations.SystemCallOutputsTheByteInY := by
  intro s hx
  refine ⟨fun h hir => ?_, exec_sys_of_one hx, fun hq hbuf => ?_⟩
  · exact tick_noOperand_of_ir sysOutputByte h hir (if_neg (by simp [hx])) (sysExecute1_of_one hx)
  · rw [exec_sys_of_one hx, hq, hbuf, drain_of_queue_console rfl]
    rfl

theorem tickReports_execute1 {s : State} (h : InPhase .execute1 s) : tickReports s = execute1Reports s := by
  rw [tickReports, if_neg (by simp [h.1]), h.2]

/-- The tick that begins execute-1 of a call, in decode-1 or in phase 3, reports a number that has no row when
diagnostics are on (R154, R183). -/
theorem tickReports_sys_of_other {s : State} (h1 : s.x ≠ 1#8) (h2 : s.x ≠ 2#8) (h3 : s.x ≠ 3#8)
    (h : InPhase .decode1 s ∨ InPhase .execute1 s) (hir : s.ir = opcode .sys) :
    tickReports s = if s.diag then [.diag (.invalidSystemCall s.x)] else [] := by
  have hreports : execute1Reports s = diagReport (.invalidSystemCall s.x) s := by
    rw [execute1Reports, hir, operationOf_opcode]
    exact if_pos ⟨rfl, h1, h2, h3⟩
  have hclass : classify s.ir s.x = .noOperand := by
    rw [hir, classify_opcode]
    exact if_neg h3
  rcases h with h | h
  · rw [tickReports_decode1 h, decode1Reports, hclass]
    exact hreports
  · exact (tickReports_execute1 h).trans hreports

/-- Settles O26: the only pulse posts no event and goes to interrupt-check. -/
theorem systemCallOfAnotherNumberDoesNothing : Obligations.SystemCallOfAnotherNumberDoesNothing := by
  intro s h1 h2 h3
  refine ⟨?_, fun h hir => ⟨?_, tickReports_sys_of_other h1 h2 h3 h hir⟩⟩
  · exact sysLoop_of_first_pulse (by decide) (sysExecute1_of_other (s := decodedNone .sys s) h1 h2 h3) rfl
  · exact tick_noOperand_of_ir raiseInvalidOpcode h hir (if_neg h3) (sysExecute1_of_other h1 h2 h3)

end Sys2Proof.Machine
end

section
/-! SUPPORT. The interrupt controller: where an event is inserted, that the sort is stable, and what `Next` takes. -/

namespace Sys2Proof.Machine

/-- An event is inserted between the events of no greater priority value and those of a greater one (R173). -/
theorem insertByPriority_split {ev : Event} {q : List Event} (h : QueueSorted q) :
    ∃ before after, q = before ++ after ∧ insertByPriority ev q = before ++ ev :: after ∧
      (∀ e ∈ before, e.priority ≤ ev.priority) ∧ ∀ e ∈ after, ev.priority < e.priority := by
  induction q with
  | nil => exact ⟨[], [], rfl, rfl, nofun, nofun⟩
  | cons e es ih =>
    obtain ⟨hfirst, htail⟩ := List.pairwise_cons.mp h
    by_cases hlt : ev.priority < e.priority
    case pos =>
      refine ⟨[], e :: es, rfl, if_pos hlt, nofun, List.forall_mem_cons.mpr ⟨hlt, fun x hx => ?_⟩⟩
      exact hlt.trans_le (hfirst x hx)
    case neg =>
      obtain ⟨before, after, rfl, hinsert, hbefore, hafter⟩ := ih htail
      refine ⟨e :: before, after, rfl, ?_, List.forall_mem_cons.mpr ⟨Nat.le_of_not_lt hlt, hbefore⟩, hafter⟩
      rw [insertByPriority, if_neg hlt, hinsert, List.cons_append]

/-- Among the events of one priority the inserted one comes last. -/
theorem filter_insertByPriority {ev : Event} {q : List Event} (h : QueueSorted q) (p : Nat) :
    (insertByPriority ev q).filter (fun e => e.priority == p) = (q ++ [ev]).filter fun e => e.priority == p := by
  obtain ⟨before, after, rfl, hinsert, _, hafter⟩ := insertByPriority_split (ev := ev) h
  rw [hinsert]
  by_cases hp : ev.priority = p
  · have hnone : after.filter (fun e => e.priority == p) = [] :=
      List.filter_eq_nil_iff.mpr fun e he => by simpa [← hp] using (hafter e he).ne'
    simp [hp, hnone]
  · simp [hp]

/-- The sort is stable: the events of each priority keep their order (R173, R184). -/
theorem filter_sortByPriority (q : List Event) (p : Nat) :
    (sortByPriority q).filter (fun e => e.priority == p) = q.filter fun e => e.priority == p := by
  induction q using List.reverseRecOn with
  | nil => rfl
  | append_singleton q ev ih =>
    rw [sortByPriority_append_singleton, filter_insertByPriority (sortByPriority_sorted q), List.filter_append, ih,
      List.filter_append]

theorem nextEvent_of_queue_nil {s : State} (h : s.queue = []) : nextEvent s = (none, s) := by
  cases s
  cases h
  rfl

theorem nextEvent_of_sort {s : State} {ev : Event} {rest : List Event} (h : sortByPriority s.queue = ev :: rest) :
    nextEvent s = (some ev, { s with queue := rest }) := by
  rw [nextEvent, h]

/-- Settles O35: on a sorted queue `post` is one insertion, which splits the queue. -/
theorem postInsertsBehindItsEquals : Obligations.PostInsertsBehindItsEquals := by
  intro s ev h
  obtain ⟨before, after, hsplit, hinsert, hbefore, hafter⟩ := insertByPriority_split (ev := ev) h
  refine ⟨before, after, hsplit, ?_, hbefore, hafter, hinsert ▸ insertByPriority_sorted h⟩
  rw [post, sortByPriority_append_singleton, sortByPriority_of_sorted h, hinsert]

/-- Settles O36: the sort is a sorted permutation and stable, and on a sorted queue it changes nothing. -/
theorem nextTakesTheFrontOfTheStableSort : Obligations.NextTakesTheFrontOfTheStableSort := by
  refine fun s => ⟨nextEvent_of_queue_nil, fun hne => ?_, fun ev rest hsorted hq => ?_⟩
  · obtain ⟨ev, rest, hsort⟩ := List.exists_cons_of_ne_nil (mt sortByPriority_eq_nil.mp hne)
    refine ⟨ev, rest, nextEvent_of_sort hsort, ?_⟩
    rw [← hsort]
    exact ⟨sortByPriority_perm _, sortByPriority_sorted _, filter_sortByPriority _⟩
  · exact nextEvent_of_sort ((sortByPriority_of_sorted hsorted).trans hq)

/-- Settles O37: a post on the sorted queue of one event is one comparison of priorities. -/
theorem consoleComesBeforeKeyboard : Obligations.ConsoleComesBeforeKeyboard := by
  intro s k1 k2 hq h1 h2
  have hpost (ev first : Event) : (post ev (post first s)).queue = insertByPriority ev [first] := by
    rw [post, post, hq]
    rfl
  constructor
  · exact (hpost _ _).trans (if_pos (by decide))
  · exact (hpost _ _).trans (if_neg (by omega))

end Sys2Proof.Machine
end

section
/-! SUPPORT. One interrupt-check pulse: the arm of each kind of event, and its reports. -/

namespace Sys2Proof.Machine

section
variable {s : State} {ev : Event} {rest : List Event}

theorem interruptCheck_of_sort (h : sortByPriority s.queue = ev :: rest) :
    interruptCheck s = serviceEvent ev { s with queue := rest } := by
  rw [interruptCheck, nextEvent_of_sort h]

/-! ## The hardwired arms (R178, R179, R199) -/

theorem serviceEvent_of_keyboard (h : ev.name = .keyboard) :
    serviceEvent ev s = serviceKeyboard { s with mode := .interruptServicing } := by
  rw [serviceEvent, h]

theorem serviceEvent_of_console (h : ev.name = .console) :
    serviceEvent ev s = serviceConsole { s with mode := .interruptServicing } := by
  rw [serviceEvent, h]

theorem serviceEvent_of_other {name : String} (h : ev.name = .other name) :
    serviceEvent ev s = { s with mode := .interruptServicing } := by
  rw [serviceEvent, h]

theorem serviceKeyboard_of_nil (h : s.kbdBuf = []) : serviceKeyboard s = s := by
  rw [serviceKeyboard, h]

theorem serviceKeyboard_of_cons {code : Byte} {codes : List Byte} (h : s.kbdBuf = code :: codes) :
    serviceKeyboard s = keyHandler (Config.keyAction code) { s with kbdBuf := codes } := by
  rw [serviceKeyboard, h]

theorem serviceConsole_of_nil (h : s.conBuf = []) : serviceConsole s = s := by
  rw [serviceConsole, h]

theorem serviceConsole_of_cons {u : OutputUnit} {us : List OutputUnit} (h : s.conBuf = u :: us) :
    serviceConsole s = { s with conBuf := us, out := s.out ++ [u] } := by
  rw [serviceConsole, h]

theorem tickReports_interruptCheck (h : InPhase .interruptCheck s) : tickReports s = interruptCheckReports s := by
  rw [tickReports, if_neg (by simp [h.1]), h.2]

end

/-- Settles O33: a tick in phase 6 is one poll, which runs the arm of the event `Next` takes. -/
theorem interruptCheckPulse : Obligations.InterruptCheckPulse := by
  intro s h
  rw [tick_interruptCheck h]
  refine ⟨fun hq => by rw [interruptCheck_of_queue_nil hq], fun ev rest hsort => ?_⟩
  rw [interruptCheck_of_sort hsort]
  refine ⟨fun hname => ?_, fun hname => ?_, fun _ hname => by rw [serviceEvent_of_other hname]⟩
  · rw [serviceEvent_of_keyboard hname]
    exact ⟨fun hbuf => congrArg _ (serviceKeyboard_of_nil hbuf),
      fun _ _ hbuf => congrArg _ (serviceKeyboard_of_cons hbuf)⟩
  · rw [serviceEvent_of_console hname]
    exact ⟨fun hbuf => congrArg _ (serviceConsole_of_nil hbuf),
      fun _ _ hbuf => congrArg _ (serviceConsole_of_cons hbuf)⟩

/-- Settles O34: the four arms of the routine, and the report of the poll that runs it. -/
theorem keyHandlerActions : Obligations.KeyHandlerActions := by
  refine fun s first last => ⟨rfl, rfl, rfl, rfl, fun code codes ev rest h hsort hname hbuf => ?_⟩
  rw [tickReports_interruptCheck h, interruptCheckReports, hsort, hbuf]
  refine (if_pos hname).trans ?_
  cases Config.keyAction code <;> rfl

end Sys2Proof.Machine
end

section
/-! SUPPORT. The console's string read, the key stroke and the dump (R188, R189, R191). -/

namespace Sys2Proof.Machine

/-- Settles O40: the two answers of the console's string read, by the byte at the cursor. -/
theorem consoleReadsOneStringBytePerCall : Obligations.ConsoleReadsOneStringBytePerCall :=
  fun _ _ _ hb => ⟨consoleOutputString_of_nul hb, consoleOutputString_of_ne hb⟩

/-- The addresses a dump lists are those from its start to its end; from 65,536 on they are invalid (R191). -/
theorem mem_dumpListing {first last a : Nat} {b : Option Byte} {s : State} :
    (a, b) ∈ dumpListing first last s ↔
      first ≤ a ∧ a ≤ last ∧ b = if a < 65536 then some (s.cells.read a) else none := by
  have hrange : a ∈ List.range' first (last + 1 - first) ↔ first ≤ a ∧ a ≤ last := by
    rw [List.mem_range'_1]
    omega
  rw [dumpListing, List.mem_map, ← and_assoc, ← hrange]
  constructor
  · rintro ⟨_, hmem, heq⟩
    cases heq
    exact ⟨hmem, rfl⟩
  · rintro ⟨hmem, rfl⟩
    exact ⟨a, hmem, rfl⟩

/-- Settles O60: a 7-bit code fits its byte, and `mem_dumpListing` says what a dump lists. -/
theorem keyStrokeAndDump : Obligations.KeyStrokeAndDump := by
  refine fun s code first last => ⟨⟨code.setWidth 8, ?_, rfl⟩, rfl, rfl, rfl, rfl, rfl, rfl, fun _ _ => mem_dumpListing⟩
  exact BitVec.toNat_setWidth_of_le (by decide)

end Sys2Proof.Machine
end

section
/-! SUPPORT. The drain loop: what a poll does to the queue, a bound on the polls left that every service lowers, and
the exact number of polls when no greeting key is buffered. -/

namespace Sys2Proof.Machine

/-- A key whose action posts an event is buffered (R192). -/
def GreetingBuffered (s : State) : Prop := ∃ code ∈ s.kbdBuf, Config.keyAction code = .greeting

section
variable {s : State} {ev : Event} {rest : List Event}

/-! ## What a service does to the queue, the keyboard's FIFO and `mode` -/

/-- The key-handling routine posts for a greeting only (R192). -/
theorem keyHandler_queue (action : KeyAction) (s : State) :
    (keyHandler action s).queue = s.queue ∨
    action = .greeting ∧ (keyHandler action s).queue = sortByPriority (s.queue ++ [consoleEvent]) := by
  cases action with
  | greeting => exact .inr ⟨rfl, rfl⟩
  | toggleDiag | dump | nothing => exact .inl rfl

theorem keyHandler_kbdBuf (action : KeyAction) (s : State) : (keyHandler action s).kbdBuf = s.kbdBuf := by
  cases action <;> rfl

theorem keyHandler_mode (action : KeyAction) (s : State) : (keyHandler action s).mode = s.mode := by
  cases action <;> rfl

/-- A service posts for a buffered greeting key only, and that takes a Keyboard event. -/
theorem serviceEvent_queue (ev : Event) (s : State) :
    (serviceEvent ev s).queue = s.queue ∨
    ev.name = .keyboard ∧ GreetingBuffered s ∧
      (serviceEvent ev s).queue = sortByPriority (s.queue ++ [consoleEvent]) := by
  rcases serviceEvent_cases ev s with h | ⟨_, _, _, _, h⟩ | ⟨code, codes, hname, hbuf, h⟩
  · exact .inl (by rw [h])
  · exact .inl (by rw [h])
  · rw [h]
    refine (keyHandler_queue _ _).imp_right fun ⟨hgreeting, hqueue⟩ => ⟨hname, ⟨code, ?_, hgreeting⟩, hqueue⟩
    exact hbuf ▸ List.mem_cons_self

theorem serviceEvent_kbdBuf_subset (ev : Event) (s : State) : (serviceEvent ev s).kbdBuf ⊆ s.kbdBuf := by
  rcases serviceEvent_cases ev s with h | ⟨_, _, _, _, h⟩ | ⟨code, codes, _, hbuf, h⟩
  · simp [h]
  · simp [h]
  · rw [h, keyHandler_kbdBuf, hbuf]
    exact List.subset_cons_self code codes

theorem serviceEvent_mode (ev : Event) (s : State) : (serviceEvent ev s).mode = .interruptServicing := by
  rcases serviceEvent_cases ev s with h | ⟨_, _, _, _, h⟩ | ⟨_, _, _, _, h⟩
  · rw [h]
  · rw [h]
  · rw [h, keyHandler_mode]

/-! ## The polls left -/

/-- A bound on the servicing pulses left: one for each event, and one more for each Keyboard event, whose key may be a
greeting. -/
def pollBound (q : List Event) : Nat := q.length + q.countP fun e => e.name = .keyboard

theorem pollBound_le (q : List Event) : pollBound q ≤ 2 * q.length := by
  have := List.countP_le_length (p := fun e : Event => decide (e.name = .keyboard)) (l := q)
  rw [pollBound]
  omega

theorem pollBound_sort (q : List Event) : pollBound (sortByPriority q) = pollBound q := by
  rw [pollBound, sortByPriority_length, (sortByPriority_perm q).countP_eq, pollBound]

theorem pollBound_append_console (q : List Event) : pollBound (q ++ [consoleEvent]) = pollBound q + 1 := by
  have hcount : [consoleEvent].countP (fun e => e.name = .keyboard) = 0 := rfl
  rw [pollBound, List.length_append, List.countP_append, hcount, List.length_singleton, pollBound]
  omega

theorem pollBound_lt_cons (ev : Event) (q : List Event) : pollBound q < pollBound (ev :: q) := by
  rw [pollBound, pollBound, List.length_cons, List.countP_cons]
  omega

theorem pollBound_cons_of_keyboard (h : ev.name = .keyboard) (q : List Event) :
    pollBound (ev :: q) = pollBound q + 2 := by
  have hcount : (ev :: q).countP (fun e => e.name = .keyboard) = q.countP (fun e => e.name = .keyboard) + 1 :=
    List.countP_cons_of_pos (by simpa using h)
  rw [pollBound, List.length_cons, hcount, pollBound]
  omega

/-- Every service lowers the bound: a greeting's post costs less than the Keyboard event gave. -/
theorem pollBound_interruptCheck_lt (h : s.queue ≠ []) : pollBound (interruptCheck s).queue < pollBound s.queue := by
  obtain ⟨ev, rest, hsort⟩ := List.exists_cons_of_ne_nil (mt sortByPriority_eq_nil.mp h)
  rw [interruptCheck_of_sort hsort, ← pollBound_sort s.queue, hsort]
  rcases serviceEvent_queue ev { s with queue := rest } with hqueue | ⟨hname, _, hqueue⟩
  · rw [hqueue]
    exact pollBound_lt_cons ev rest
  · rw [hqueue, pollBound_sort, pollBound_append_console, pollBound_cons_of_keyboard hname]
    exact Nat.lt_succ_self _

/-- The loop ends with the empty poll when its fuel covers the bound (R177, R185). -/
theorem drainFor_ends {fuel : Nat} (h : pollBound s.queue ≤ fuel) :
    (drainFor fuel s).queue = [] ∧ (drainFor fuel s).mode = .normal ∧ (drainFor fuel s).step = .fetch := by
  have hempty {t : State} (hq : t.queue = []) :
      (interruptCheck t).queue = [] ∧ (interruptCheck t).mode = .normal ∧ (interruptCheck t).step = .fetch := by
    rw [interruptCheck_of_queue_nil hq]
    exact ⟨hq, rfl, rfl⟩
  induction fuel generalizing s with
  | zero =>
    have hlen : s.queue.length = 0 := by
      rw [pollBound] at h
      omega
    exact hempty (List.length_eq_zero_iff.mp hlen)
  | succ fuel ih =>
    rw [drainFor]
    split
    case isTrue hq => exact hempty hq
    case isFalse hq => exact ih (by have := pollBound_interruptCheck_lt hq; omega)

/-! ## With no greeting key buffered -/

/-- A poll buffers no key. -/
theorem not_greetingBuffered_interruptCheck (h : ¬ GreetingBuffered s) : ¬ GreetingBuffered (interruptCheck s) := by
  rintro ⟨code, hmem, hgreeting⟩
  refine h ⟨code, ?_, hgreeting⟩
  rcases interruptCheck_cases s with ⟨_, hi⟩ | ⟨ev, rest, _, hi⟩
  · rwa [hi] at hmem
  · rw [hi] at hmem
    exact serviceEvent_kbdBuf_subset ev { s with queue := rest } hmem

/-- With no greeting key buffered, a servicing pulse takes exactly one event from the queue. -/
theorem length_queue_interruptCheck (h : s.queue ≠ []) (hg : ¬ GreetingBuffered s) :
    s.queue.length = (interruptCheck s).queue.length + 1 := by
  obtain ⟨ev, rest, hsort⟩ := List.exists_cons_of_ne_nil (mt sortByPriority_eq_nil.mp h)
  rw [interruptCheck_of_sort hsort, ← sortByPriority_length s.queue, hsort]
  rcases serviceEvent_queue ev { s with queue := rest } with hqueue | ⟨_, hbuf, _⟩
  · rw [hqueue, List.length_cons]
  · exact absurd hbuf hg

theorem interruptCheck_mode_of_ne (h : s.queue ≠ []) : (interruptCheck s).mode = .interruptServicing := by
  obtain ⟨ev, rest, hsort⟩ := List.exists_cons_of_ne_nil (mt sortByPriority_eq_nil.mp h)
  rw [interruptCheck_of_sort hsort]
  exact serviceEvent_mode ev _

theorem interruptCheck_inPhase_of_ne (h : InPhase .interruptCheck s) (hq : s.queue ≠ []) :
    InPhase .interruptCheck (interruptCheck s) :=
  ⟨(interruptCheck_halted s).trans h.1, (interruptCheck_step_of_ne hq).trans h.2⟩

/-- `n` servicing pulses, `n` at most the number of pending events. -/
theorem ticks_servicing {n : Nat} (h : InPhase .interruptCheck s) (hg : ¬ GreetingBuffered s)
    (hn : n ≤ s.queue.length) : ∃ t, ticks n s = .next t ∧ t.step = .interruptCheck ∧
      t.queue.length = s.queue.length - n ∧ (0 < n → t.mode = .interruptServicing) := by
  induction n generalizing s with
  | zero => exact ⟨s, rfl, h.2, rfl, nofun⟩
  | succ n ih =>
    have hne : s.queue ≠ [] := List.ne_nil_of_length_pos (by omega)
    have hlen := length_queue_interruptCheck hne hg
    obtain ⟨t, ht, hstep, hqueue, hmode⟩ :=
      ih (interruptCheck_inPhase_of_ne h hne) (not_greetingBuffered_interruptCheck hg) (by omega)
    refine ⟨t, by rw [ticks_succ, tick_interruptCheck h, andThen_next, ht], hstep, by omega, fun _ => ?_⟩
    cases n with
    | zero =>
      cases ht
      exact interruptCheck_mode_of_ne hne
    | succ n => exact hmode n.succ_pos

/-- The pulses of the whole loop: one for each pending event, and the empty poll. -/
theorem ticks_drainFor {fuel : Nat} (h : InPhase .interruptCheck s) (hg : ¬ GreetingBuffered s)
    (hfuel : s.queue.length ≤ fuel) : ticks (s.queue.length + 1) s = .next (drainFor fuel s) := by
  have hempty {t : State} (ht : InPhase .interruptCheck t) (hq : t.queue = []) :
      ticks (t.queue.length + 1) t = .next (interruptCheck t) := by
    rw [hq, List.length_nil, ticks_one, tick_interruptCheck ht]
  induction fuel generalizing s with
  | zero => exact hempty h (List.length_eq_zero_iff.mp (Nat.le_zero.mp hfuel))
  | succ fuel ih =>
    rw [drainFor]
    split
    case isTrue hq => exact hempty h hq
    case isFalse hq =>
      have hlen := length_queue_interruptCheck hq hg
      rw [hlen, ticks_succ, tick_interruptCheck h, andThen_next]
      exact ih (interruptCheck_inPhase_of_ne h hq) (not_greetingBuffered_interruptCheck hg) (by omega)

end

/-- Settles O38: the loop's fuel covers the bound on the polls left, and no poll changes a register or a cell. -/
theorem drainLoopEndsAtTheNextFetch : Obligations.DrainLoopEndsAtTheNextFetch := by
  intro s
  obtain ⟨hqueue, hmode, hstep⟩ := drainFor_ends (pollBound_le s.queue)
  exact ⟨hqueue, hmode, hstep, drain_a s, drain_x s, drain_y s, drain_pc s, drain_ir s, drain_zFlag s,
    drain_tempStore s, drain_hob s, drain_lob s, drain_mar s, drain_mdr s, drain_cells s, drain_halted s,
    drain_of_queue_nil⟩

/-- Settles O39: with no greeting key buffered each servicing pulse takes one event, and the empty poll is the last. -/
theorem drainTakesOnePulseMoreThanEvents : Obligations.DrainTakesOnePulseMoreThanEvents := by
  intro s h hkeys
  have hg : ¬ GreetingBuffered s := fun ⟨code, hmem, hgreeting⟩ => hkeys code hmem hgreeting
  exact ⟨fun n hn => ticks_servicing h hg hn, ticks_drainFor h hg (by omega)⟩

end Sys2Proof.Machine
end

section
/-! SUPPORT. A string call over a memory without NUL (R155, R207): what holds when its execute-1 begins, and that every
pulse keeps it. -/

namespace Sys2Proof.Machine

/-- Execute-1 of a string call is next, its string's address is there, and no cell holds the NUL that would end it. -/
structure InEndlessString (start : Word) (s : State) : Prop where
  call : StringCallAt start s
  step : s.step = .execute1
  ir : s.ir = opcode .sys
  noNul : ∀ a : Word, s.cells.read a.toNat ≠ 0x00#8

section
variable {s : State} {start : Word}

/-- A pulse of such a call goes on with it, one byte further: it writes none of what `InEndlessString` speaks of. -/
theorem InEndlessString.sysExecute1_goesOn (h : InEndlessString start s) :
    ∃ t, sysExecute1 s = .next t ∧ InEndlessString start t := by
  have hpulse := (sysExecute1_of_stringCallAt h.call).trans (congrArg _ (sysStringPulse_of_ne rfl (h.noNul _)))
  exact ⟨_, hpulse, h.call, h.step, h.ir, h.noNul⟩

theorem InEndlessString.sysLoop_goesOn (n : Nat) {s : State} (h : InEndlessString start s) :
    ∃ t, sysLoop n s = .next t ∧ InEndlessString start t := by
  induction n generalizing s with
  | zero => exact ⟨s, rfl, h⟩
  | succ n ih =>
    obtain ⟨t, ht, hgoOn⟩ := h.sysExecute1_goesOn
    rw [sysLoop, ht, andThen_next, if_pos hgoOn.step]
    exact ih hgoOn

/-- The premises do not say that the clock runs; when it is stopped, the call stands where it is (R90). -/
theorem InEndlessString.tick_goesOn (h : InEndlessString start s) : ∃ t, tick s = .next t ∧ InEndlessString start t := by
  cases hrun : s.halted with
  | true => exact ⟨s, tick_of_halted hrun, h⟩
  | false => exact tick_sysExecute1 ⟨hrun, h.step⟩ h.ir ▸ h.sysExecute1_goesOn

theorem InEndlessString.ticks_goesOn (n : Nat) {s : State} (h : InEndlessString start s) :
    ∃ t, ticks n s = .next t ∧ InEndlessString start t := by
  induction n generalizing s with
  | zero => exact ⟨s, rfl, h⟩
  | succ n ih =>
    obtain ⟨t, ht, hgoOn⟩ := h.tick_goesOn
    rw [ticks_succ, ht]
    exact ih hgoOn

/-- The whole instruction, cut after its pulses, is still inside the call, and so it is after every tick. -/
theorem InEndlessString.neverEnds (h : InEndlessString start s) :
    ∃ t, sysLoop sysPulses s = .next t ∧ ∀ n, ∃ u, ticks n t = .next u ∧ u.step = .execute1 := by
  obtain ⟨t, ht, hgoOn⟩ := h.sysLoop_goesOn sysPulses
  exact ⟨t, ht, fun n => (hgoOn.ticks_goesOn n).imp fun _ ⟨hu, hin⟩ => ⟨hu, hin.step⟩⟩

end

/-- Settles O27: decode leads to execute-1 of the call and changes no cell, and no pulse from there on meets a NUL. -/
theorem stringWithoutNulNeverEnds : Obligations.StringWithoutNulNeverEnds := by
  refine fun s addr hnoNul => ⟨fun hx => ?_, fun hx => ?_⟩
  · have hcall : StringCallAt _ (decodedNone .sys s) := .inl ⟨hx, rfl⟩
    exact InEndlessString.neverEnds ⟨hcall, rfl, rfl, hnoNul⟩
  · have hcall : StringCallAt _ (decodedAddress .sys addr s) := .inr ⟨hx, composeAddress_of_set rfl rfl⟩
    exact InEndlessString.neverEnds ⟨hcall, rfl, rfl, hnoNul⟩

end Sys2Proof.Machine
end

section
/-! SUPPORT. The moves of the host and the environment (R218). -/

namespace Sys2Proof.Machine

/-- Settles O55: each move by the lemma about it; a dump changes no state. -/
theorem environmentKeepsTheInvariant : Obligations.EnvironmentKeepsTheInvariant := by
  intro s t m h hm
  cases m with
  | reset =>
    cases hm
    exact resetMeetsTheInvariant
  | load bytes start => exact load_inv h hm
  | tick =>
    obtain ⟨u, hu, hinv⟩ := tick_inv h
    cases hu.symm.trans hm
    exact hinv
  | key code =>
    cases hm
    exact key_inv code h
  | post ev =>
    cases hm
    exact post_inv ev h
  | dump first last =>
    cases hm
    exact h

end Sys2Proof.Machine
end
